-- ==== Sys2Proof/Word.lean ====
section
/-! DEFINITION. The word types of the block and their plainest arithmetic. -/

namespace Sys2Proof

/-- A byte: a general register, a timer, a memory cell (10_state R20, R28, R32). -/
abbrev Byte := BitVec 8

/-- A 16-bit word: PC, I, a stack entry, an instruction word (10_state R23, R24, R27; 30_encoding R70). -/
abbrev Half := BitVec 16

/-- The 12-bit field `nnn` (30_encoding R74). -/
abbrev Addr12 := BitVec 12

/-- The number of a general register, V0 to VF (10_state R20). -/
abbrev Reg := Fin 16

/-- The index of a key, 0x0 to 0xF (10_state R31). -/
abbrev Key := Fin 16

/-- VF, the register that is also the flag (10_state R21). -/
abbrev vf : Reg := 15

/-- `zext_16(nnn)` (00_scope R9, 30_encoding R76). -/
def zext16 (nnn : Addr12) : Half := nnn.setWidth 16

end Sys2Proof
end

