-- ==== Sys2Proof/Machine/Flags.lean ====
section
/-! DEFINITION. Every flag computation: the value that VF receives (10_state R37). A flag is 0 or 1,
never another value (41_alu R126). -/

namespace Sys2Proof.Machine

/-- 1 for true, 0 for false. -/
def flagByte (b : Bool) : Byte := if b then 1 else 0

/-- 8xy4: the sum does not fit in 8 bits (41_alu R127). -/
def carryFlag (a b : Byte) : Byte := flagByte (decide (a.toNat + b.toNat > 255))

/-- 8xy5 and 8xy7: `a − b` does not borrow, that is a ≥ b (R128, R130). -/
def noBorrowFlag (a b : Byte) : Byte := flagByte (decide (a.toNat ≥ b.toNat))

/-- 8xy6: the bit shifted out at the low end (R129). -/
def lowBitFlag (a : Byte) : Byte := a &&& 1

/-- 8xyE: the bit shifted out at the high end, normalised to 0 or 1 (R131). -/
def highBitFlag (a : Byte) : Byte := (a >>> 7) &&& 1

/-- Fx1E: the sum does not fit in 12 bits (42_index_memory R151). -/
def indexCarryFlag (i : Half) (a : Byte) : Byte := flagByte (decide (i.toNat + a.toNat ≥ 4096))

/-- Dxyn: a set pixel was turned off (43_display R171). -/
def collisionFlag (collision : Bool) : Byte := flagByte collision

end Sys2Proof.Machine
end

