-- ==== Sys2Proof/Syntax.lean ====
section
/-! DEFINITION. The instructions: one constructor for each row of spec/opcode_table.json. -/

namespace Sys2Proof

/-- The 34 instructions of 30_encoding R80 and the six spaces of unassigned words of R83. Each
constructor keeps every field of its word, the ignored ones too (`y` of 8xy6 and 8xyE, R77; the free bits of an
unassigned word), so that a word and its instruction determine each other (notes/assumptions/15.md). -/
inductive Instr where
  /-- 00E0, clear screen (43_display R170). -/
  | cls
  /-- 00EE, return (40_flow R101). -/
  | ret
  /-- 1nnn, jump (R103). -/
  | jp (nnn : Addr12)
  /-- 2nnn, call (R102). -/
  | call (nnn : Addr12)
  /-- 3xnn, skip if V[x] = nn (R105). -/
  | seImm (x : Reg) (nn : Byte)
  /-- 4xnn, skip if V[x] ≠ nn (R106). -/
  | sneImm (x : Reg) (nn : Byte)
  /-- 5xy0, skip if V[x] = V[y] (R107). -/
  | seReg (x y : Reg)
  /-- 6xnn, load immediate (41_alu R120). -/
  | ldImm (x : Reg) (nn : Byte)
  /-- 7xnn, add immediate (R121). -/
  | addImm (x : Reg) (nn : Byte)
  /-- 8xy0, copy (R122). -/
  | ldReg (x y : Reg)
  /-- 8xy1, OR (R123). -/
  | orReg (x y : Reg)
  /-- 8xy2, AND (R124). -/
  | andReg (x y : Reg)
  /-- 8xy3, XOR (R125). -/
  | xorReg (x y : Reg)
  /-- 8xy4, add with carry flag (R127). -/
  | addReg (x y : Reg)
  /-- 8xy5, subtract (R128). -/
  | sub (x y : Reg)
  /-- 8xy6, shift right; `y` is ignored (R129). -/
  | shr (x y : Reg)
  /-- 8xy7, reverse subtract (R130). -/
  | subn (x y : Reg)
  /-- 8xyE, shift left; `y` is ignored (R131). -/
  | shl (x y : Reg)
  /-- 9xy0, skip if V[x] ≠ V[y] (40_flow R108). -/
  | sneReg (x y : Reg)
  /-- Annn, load index (42_index_memory R150). -/
  | ldI (nnn : Addr12)
  /-- Bnnn, jump; V0 is not added in this hardware (40_flow R104). -/
  | jpV0 (nnn : Addr12)
  /-- Cxnn, random (41_alu R132). -/
  | rnd (x : Reg) (nn : Byte)
  /-- Dxyn, draw an n-row sprite (43_display R171). -/
  | drw (x y : Reg) (n : BitVec 4)
  /-- Ex9E, skip if key pressed (44_timers_keypad R191). -/
  | skp (x : Reg)
  /-- ExA1, skip if key not pressed (R192). -/
  | sknp (x : Reg)
  /-- Fx07, read the delay timer (R193). -/
  | ldVDt (x : Reg)
  /-- Fx0A, wait for a key (R196). -/
  | ldVK (x : Reg)
  /-- Fx15, set the delay timer (R194). -/
  | ldDtV (x : Reg)
  /-- Fx18, set the sound timer (R195). -/
  | ldStV (x : Reg)
  /-- Fx1E, add to index (42_index_memory R151). -/
  | addI (x : Reg)
  /-- Fx29, glyph address (R152). -/
  | ldF (x : Reg)
  /-- Fx33, binary-coded decimal (R153). -/
  | ldB (x : Reg)
  /-- Fx55, store V0 to V[x] (R154). -/
  | ldMemV (x : Reg)
  /-- Fx65, load V0 to V[x] (R155). -/
  | ldVMem (x : Reg)
  /-- 0nnn other than 00E0 and 00EE (30_encoding R81, R83; 49_unassigned R210). -/
  | unassigned0 (nnn : Addr12)
  /-- 5xyN with N ≠ 0 (R82, R83). -/
  | unassigned5 (x y : Reg) (n : BitVec 4)
  /-- 8xyN with N in 8, 9, A, B, C, D, F (R83). -/
  | unassigned8 (x y : Reg) (n : BitVec 4)
  /-- 9xyN with N ≠ 0 (R82, R83). -/
  | unassigned9 (x y : Reg) (n : BitVec 4)
  /-- ExNN with NN not 9E or A1 (R83). -/
  | unassignedE (x : Reg) (nn : Byte)
  /-- FxNN with NN none of 07, 0A, 15, 18, 1E, 29, 33, 55, 65 (R83). -/
  | unassignedF (x : Reg) (nn : Byte)
  deriving DecidableEq, Repr

/-- Whether the instruction is one of the six spaces of unassigned words (30_encoding R83). -/
def Instr.isUnassigned : Instr → Bool
  | .unassigned0 _ | .unassigned5 _ _ _ | .unassigned8 _ _ _
  | .unassigned9 _ _ _ | .unassignedE _ _ | .unassignedF _ _ => true
  | .cls | .ret | .jp _ | .call _ | .seImm _ _ | .sneImm _ _ | .seReg _ _ | .ldImm _ _ | .addImm _ _
  | .ldReg _ _ | .orReg _ _ | .andReg _ _ | .xorReg _ _ | .addReg _ _ | .sub _ _ | .shr _ _ | .subn _ _
  | .shl _ _ | .sneReg _ _ | .ldI _ | .jpV0 _ | .rnd _ _ | .drw _ _ _ | .skp _ | .sknp _ | .ldVDt _
  | .ldVK _ | .ldDtV _ | .ldStV _ | .addI _ | .ldF _ | .ldB _ | .ldMemV _ | .ldVMem _ => false

end Sys2Proof
end

