-- ==== Sys2Proof/WellFormed.lean ====
section
/-! DEFINITION. Which terms of `Instr` stand for a word: an unassigned word is one that no instruction of
30_encoding R80 has. The widths of the fields are in their types. -/

namespace Sys2Proof

/-- The check on a term. Only the six unassigned spaces can fail it: their free bits may not spell one
of the 34 instructions (30_encoding R83). -/
def Instr.wellFormed : Instr → Bool
  | .unassigned0 nnn => nnn != 0x0E0 && nnn != 0x0EE
  | .unassigned5 _ _ n => n != 0
  | .unassigned8 _ _ n => n == 0x8 || n == 0x9 || n == 0xA || n == 0xB || n == 0xC || n == 0xD || n == 0xF
  | .unassigned9 _ _ n => n != 0
  | .unassignedE _ nn => nn != 0x9E && nn != 0xA1
  | .unassignedF _ nn => nn != 0x07 && nn != 0x0A && nn != 0x15 && nn != 0x18 && nn != 0x1E && nn != 0x29 &&
      nn != 0x33 && nn != 0x55 && nn != 0x65
  | .cls | .ret | .jp _ | .call _ | .seImm _ _ | .sneImm _ _ | .seReg _ _ | .ldImm _ _ | .addImm _ _
  | .ldReg _ _ | .orReg _ _ | .andReg _ _ | .xorReg _ _ | .addReg _ _ | .sub _ _ | .shr _ _ | .subn _ _
  | .shl _ _ | .sneReg _ _ | .ldI _ | .jpV0 _ | .rnd _ _ | .drw _ _ _ | .skp _ | .sknp _ | .ldVDt _
  | .ldVK _ | .ldDtV _ | .ldStV _ | .addI _ | .ldF _ | .ldB _ | .ldMemV _ | .ldVMem _ => true

end Sys2Proof
end

