-- ==== Sys2Proof/Decode.lean ====
section
/-! DEFINITION. The decoder (30_encoding R71, R75, R78), total on all 65536 words, then the encoder,
both from the formats of R74 and the patterns of R80. -/

namespace Sys2Proof

/-- `hi8 ++ lo8`, the big-endian word of two bytes (30_encoding R71). -/
def wordOfBytes (hi lo : Byte) : Half := hi ++ lo

/-- The high byte of a word, the one stored first (20_memory R54). -/
def hiByte (w : Half) : Byte := w.extractLsb' 8 8

/-- The low byte of a word, the one stored second (20_memory R54). -/
def loByte (w : Half) : Byte := w.extractLsb' 0 8

/-- `op = w[15:12]` (30_encoding R75). -/
def opField (w : Half) : BitVec 4 := w.extractLsb' 12 4

/-- `x = w[11:8]` (R75). -/
def xField (w : Half) : Reg := (w.extractLsb' 8 4).toFin

/-- `y = w[7:4]` (R75). -/
def yField (w : Half) : Reg := (w.extractLsb' 4 4).toFin

/-- `n = w[3:0]` (R75). -/
def nField (w : Half) : BitVec 4 := w.extractLsb' 0 4

/-- `nn = w[7:0]` (R75). -/
def nnField (w : Half) : Byte := w.extractLsb' 0 8

/-- `nnn = w[11:0]` (R75). -/
def nnnField (w : Half) : Addr12 := w.extractLsb' 0 12

/-- The 0 family: two whole words are instructions, every other is unassigned (30_encoding R81). -/
def decode0 (nnn : Addr12) : Instr :=
  if nnn = 0x0E0 then .cls else if nnn = 0x0EE then .ret else .unassigned0 nnn

/-- The 5 family (R82). -/
def decode5 (x y : Reg) (n : BitVec 4) : Instr :=
  if n = 0 then .seReg x y else .unassigned5 x y n

/-- The 8 family, by its low nibble (R78). -/
def decode8 (x y : Reg) (n : BitVec 4) : Instr :=
  match n.toNat with
  | 0x0 => .ldReg x y
  | 0x1 => .orReg x y
  | 0x2 => .andReg x y
  | 0x3 => .xorReg x y
  | 0x4 => .addReg x y
  | 0x5 => .sub x y
  | 0x6 => .shr x y
  | 0x7 => .subn x y
  | 0xE => .shl x y
  | _ => .unassigned8 x y n

/-- The 9 family (R82). -/
def decode9 (x y : Reg) (n : BitVec 4) : Instr :=
  if n = 0 then .sneReg x y else .unassigned9 x y n

/-- The E family, by its low byte (R78). -/
def decodeE (x : Reg) (nn : Byte) : Instr :=
  if nn = 0x9E then .skp x else if nn = 0xA1 then .sknp x else .unassignedE x nn

/-- The F family, by its low byte (R78). -/
def decodeF (x : Reg) (nn : Byte) : Instr :=
  if nn = 0x07 then .ldVDt x
  else if nn = 0x0A then .ldVK x
  else if nn = 0x15 then .ldDtV x
  else if nn = 0x18 then .ldStV x
  else if nn = 0x1E then .addI x
  else if nn = 0x29 then .ldF x
  else if nn = 0x33 then .ldB x
  else if nn = 0x55 then .ldMemV x
  else if nn = 0x65 then .ldVMem x
  else .unassignedF x nn

/-- `decode(w)` (30_encoding R78): the first level is the top nibble. No word is illegal (R84). -/
def decode (w : Half) : Instr :=
  match (opField w).toNat with
  | 0x0 => decode0 (nnnField w)
  | 0x1 => .jp (nnnField w)
  | 0x2 => .call (nnnField w)
  | 0x3 => .seImm (xField w) (nnField w)
  | 0x4 => .sneImm (xField w) (nnField w)
  | 0x5 => decode5 (xField w) (yField w) (nField w)
  | 0x6 => .ldImm (xField w) (nnField w)
  | 0x7 => .addImm (xField w) (nnField w)
  | 0x8 => decode8 (xField w) (yField w) (nField w)
  | 0x9 => decode9 (xField w) (yField w) (nField w)
  | 0xA => .ldI (nnnField w)
  | 0xB => .jpV0 (nnnField w)
  | 0xC => .rnd (xField w) (nnField w)
  | 0xD => .drw (xField w) (yField w) (nField w)
  | 0xE => decodeE (xField w) (nnField w)
  | _ => decodeF (xField w) (nnField w)

/-- Why bytes give no instruction. No word is rejected (30_encoding R84): only too few bytes are. -/
inductive DecodeError where
  /-- Fewer than the 2 bytes that every instruction has (R70). Safe: a fetch always reads 2 bytes. -/
  | truncated
  deriving DecidableEq, Repr

/-- Decoding from bytes, in the order of their addresses: the instruction and the bytes after it (R70). -/
def decodeBytes : List Byte → Except DecodeError (Instr × List Byte)
  | hi :: lo :: rest => .ok (decode (wordOfBytes hi lo), rest)
  | [_] => .error .truncated
  | [] => .error .truncated

/-- A word of format NNN: op, nnn (30_encoding R74). -/
def wordNNN (op : BitVec 4) (nnn : Addr12) : Half := op ++ nnn

/-- A word of format XNN or XFN: op, x, nn (R74). -/
def wordXNN (op : BitVec 4) (x : Reg) (nn : Byte) : Half := op ++ BitVec.ofFin (w := 4) x ++ nn

/-- A word of format XYN: op, x, y, n (R74). -/
def wordXYN (op : BitVec 4) (x y : Reg) (n : BitVec 4) : Half :=
  op ++ BitVec.ofFin (w := 4) x ++ BitVec.ofFin (w := 4) y ++ n

/-- The word of an instruction, from the patterns of 30_encoding R80 and R83. -/
def encode : Instr → Half
  | .cls => 0x00E0
  | .ret => 0x00EE
  | .jp nnn => wordNNN 0x1 nnn
  | .call nnn => wordNNN 0x2 nnn
  | .seImm x nn => wordXNN 0x3 x nn
  | .sneImm x nn => wordXNN 0x4 x nn
  | .seReg x y => wordXYN 0x5 x y 0x0
  | .ldImm x nn => wordXNN 0x6 x nn
  | .addImm x nn => wordXNN 0x7 x nn
  | .ldReg x y => wordXYN 0x8 x y 0x0
  | .orReg x y => wordXYN 0x8 x y 0x1
  | .andReg x y => wordXYN 0x8 x y 0x2
  | .xorReg x y => wordXYN 0x8 x y 0x3
  | .addReg x y => wordXYN 0x8 x y 0x4
  | .sub x y => wordXYN 0x8 x y 0x5
  | .shr x y => wordXYN 0x8 x y 0x6
  | .subn x y => wordXYN 0x8 x y 0x7
  | .shl x y => wordXYN 0x8 x y 0xE
  | .sneReg x y => wordXYN 0x9 x y 0x0
  | .ldI nnn => wordNNN 0xA nnn
  | .jpV0 nnn => wordNNN 0xB nnn
  | .rnd x nn => wordXNN 0xC x nn
  | .drw x y n => wordXYN 0xD x y n
  | .skp x => wordXNN 0xE x 0x9E
  | .sknp x => wordXNN 0xE x 0xA1
  | .ldVDt x => wordXNN 0xF x 0x07
  | .ldVK x => wordXNN 0xF x 0x0A
  | .ldDtV x => wordXNN 0xF x 0x15
  | .ldStV x => wordXNN 0xF x 0x18
  | .addI x => wordXNN 0xF x 0x1E
  | .ldF x => wordXNN 0xF x 0x29
  | .ldB x => wordXNN 0xF x 0x33
  | .ldMemV x => wordXNN 0xF x 0x55
  | .ldVMem x => wordXNN 0xF x 0x65
  | .unassigned0 nnn => wordNNN 0x0 nnn
  | .unassigned5 x y n => wordXYN 0x5 x y n
  | .unassigned8 x y n => wordXYN 0x8 x y n
  | .unassigned9 x y n => wordXYN 0x9 x y n
  | .unassignedE x nn => wordXNN 0xE x nn
  | .unassignedF x nn => wordXNN 0xF x nn

/-- The bytes of an instruction in the order of their addresses, high byte first (20_memory R54). -/
def encodeBytes (i : Instr) : List Byte := [hiByte (encode i), loByte (encode i)]

/-- The word that the opcode table's numbering calls `w`, of which only `nbits` bits may be set: an instruction
has one word of 16 bits (30_encoding R70), so bit k of `w` is bit k of the word. -/
def tableWord (nbits w : Nat) : Half := BitVec.ofNat 16 (w % 2 ^ nbits)

/-- The instruction the decoder reads from the table's word: the bytes high first, as the hardware stores
them, given to `decodeBytes`. No row has more than 16 bits. -/
def decodeTableWord (nbits w : Nat) : Option Instr :=
  if nbits ≤ 16 then
    match decodeBytes [hiByte (tableWord nbits w), loByte (tableWord nbits w)] with
    | .ok (i, _) => some i
    | .error _ => none
  else none

end Sys2Proof
end

