-- ==== Sys2Proof/Config.lean ====
section
/-! DEFINITION. What is fixed for this machine (00_scope R6) and the one free value (R13). -/

namespace Sys2Proof.Config

/-- PROG_BASE: the reset PC and the address of the first ROM byte (00_scope R6, 20_memory R52). -/
abbrev progBase : Nat := 0x200

/-- ROM_MAX: the most bytes a ROM may have (00_scope R6, 70_reset_and_hazards R261). -/
abbrev romMax : Nat := 0xE00

/-- FONT_BASE: the address of glyph 0 (00_scope R6, 10_state R33). -/
abbrev fontBase : Nat := 0x050

/-- FONT_SIZE: 16 glyphs of 5 bytes (00_scope R6). -/
abbrev fontSize : Nat := 80

/-- `draw_byte()` (00_scope R13): the free input of Cxnn. FREE VALUE: it has no body, so nothing can be
proved of the byte that the k-th draw yields. The argument is the number of draws made before, which State
counts (`State.draws`). DESIGN CHOICE of the form, safe: notes/assumptions/1.md. -/
opaque drawByte : Nat → Byte

end Sys2Proof.Config
end

