-- ==== Sys2Proof/Machine/Params.lean ====
section
/-! DEFINITION. The configuration parameters of 00_scope R7, each with the value this hardware takes. The shared
operations that depend on DRAW_Y_WRAP and CLEAR_SETS_DIRTY take them as arguments. JUMP_ADDS_V0 and
LOADSTORE_INCREMENTS_I have the value false and no argument: the spec does not define the other value
(40_flow R104; notes/assumptions/16.md). -/

namespace Sys2Proof.Machine

/-- DRAW_Y_WRAP: the modulus of the start row of Dxyn. UNVERIFIED, unsafe: the spec's decision D2
against the literal 64 of its source (90_conflicts C1; notes/assumptions/3.md). -/
def drawYWrap : Nat := 32

/-- CLEAR_SETS_DIRTY: whether 00E0 sets the dirty flag (43_display R170). -/
def clearSetsDirty : Bool := false

/-- FONT: 16 glyphs of 5 bytes, glyph 0 first (10_state R33). PRESUMED, unsafe: the spec gives the
conventional bytes from general knowledge, the source prints none (notes/assumptions/2.md). -/
def font : List Byte :=
  [0xF0, 0x90, 0x90, 0x90, 0xF0] ++ [0x20, 0x60, 0x20, 0x20, 0x70] ++
  [0xF0, 0x10, 0xF0, 0x80, 0xF0] ++ [0xF0, 0x10, 0xF0, 0x10, 0xF0] ++
  [0x90, 0x90, 0xF0, 0x10, 0x10] ++ [0xF0, 0x80, 0xF0, 0x10, 0xF0] ++
  [0xF0, 0x80, 0xF0, 0x90, 0xF0] ++ [0xF0, 0x10, 0x20, 0x40, 0x40] ++
  [0xF0, 0x90, 0xF0, 0x90, 0xF0] ++ [0xF0, 0x90, 0xF0, 0x10, 0xF0] ++
  [0xF0, 0x90, 0xF0, 0x90, 0x90] ++ [0xE0, 0x90, 0xE0, 0x90, 0xE0] ++
  [0xF0, 0x80, 0x80, 0x80, 0xF0] ++ [0xE0, 0x90, 0x90, 0x90, 0xE0] ++
  [0xF0, 0x80, 0xF0, 0x80, 0xF0] ++ [0xF0, 0x80, 0xF0, 0x80, 0x80]

/-- What `create()` leaves at an address: the font at 0x050 to 0x09F, 0 elsewhere (10_state R32, R39). -/
def resetByte (a : Nat) : Byte :=
  if Config.fontBase ≤ a ∧ a < Config.fontBase + Config.fontSize then font.getD (a - Config.fontBase) 0 else 0

end Sys2Proof.Machine
end

