-- ==== Sys2Proof/Machine/Memory.lean ====
section
/-! DEFINITION. Memory (10_state R32, 20_memory R50, R51) and its primitives (00_scope R11). -/

namespace Sys2Proof.Machine

/-- Memory: the bytes that differ from what `create()` leaves, in rising order of address. An address not
listed reads as `resetByte` (10_state R39). -/
abbrev Memory := List Host.Cell

/-- The 12-bit mask that every address goes through (00_scope R11, 20_memory R51). -/
def maskAddr (a : Nat) : Nat := a % 4096

/-- The byte that the list gives a masked address. -/
def Memory.lookup (m : Memory) (a : Nat) : Byte :=
  match m with
  | [] => resetByte a
  | c :: rest => if c.1 = a then c.2 else Memory.lookup rest a

/-- `MemRead(addr, 1)` (00_scope R11). -/
def Memory.read (m : Memory) (a : Nat) : Byte := m.lookup (maskAddr a)

/-- Puts a cell before the first one with a higher address. -/
def Memory.insertCell (m : Memory) (c : Host.Cell) : Memory :=
  match m with
  | [] => [c]
  | d :: rest => if c.1 < d.1 then c :: d :: rest else d :: Memory.insertCell rest c

/-- The list without the cells of one address. -/
def Memory.erase (m : Memory) (a : Nat) : Memory := m.filter fun c => c.1 != a

/-- `MemWrite(addr, 1, v)` (00_scope R11). It keeps the canonical form: a byte equal to what an unlisted address
reads as leaves no entry. -/
def Memory.write (m : Memory) (a : Nat) (b : Byte) : Memory :=
  if b = resetByte (maskAddr a) then m.erase (maskAddr a) else (m.erase (maskAddr a)).insertCell (maskAddr a, b)

/-- Bytes written one after another from an address on, each address masked (20_memory R51, R56). -/
def Memory.writeBytes (m : Memory) (a : Nat) : List Byte → Memory
  | [] => m
  | b :: rest => Memory.writeBytes (m.write a b) (a + 1) rest

/-- The canonical form from an address on: addresses rise strictly, lie below 4096, and no entry equals what an
unlisted address reads as. -/
def Memory.wfFrom (lo : Nat) : Memory → Bool
  | [] => true
  | c :: rest => decide (lo ≤ c.1) && decide (c.1 < 4096) && c.2 != resetByte c.1 && Memory.wfFrom (c.1 + 1) rest

/-- The canonical form of a memory: equal memories are equal lists. -/
def Memory.wf (m : Memory) : Bool := Memory.wfFrom 0 m

end Sys2Proof.Machine
end

