-- ==== Sys2Proof/Machine/State.lean ====
section
/-! DEFINITION. The state of the machine (10_state), as plain data, and the state after `create()` (R39). -/

namespace Sys2Proof.Machine

/-- The fault status (10_state R34). -/
inductive FaultStatus where
  /-- No fault. -/
  | none
  /-- A 2nnn at SP = 16 (60_exceptions R220). -/
  | stackOverflow
  /-- A 00EE at SP = 0 (R220). -/
  | stackUnderflow
  deriving DecidableEq, Repr

/-- The framebuffer: cell (col, row) at offset row·64 + col, true for 1 (10_state R29). -/
abbrev Framebuffer := Vector Bool 2048

/-- Every piece of state the spec gives the machine (10_state R20 to R35), and the model's own `draws`. -/
structure State where
  /-- V0 to VF (R20). -/
  v : Vector Byte 16
  /-- The index register, below 0x1000 in every reachable state (R23). -/
  i : Half
  /-- The program counter, 16 bits and not masked (R24, R25). -/
  pc : Half
  /-- The stack pointer, 0 to 16: how many entries are valid (R26). -/
  sp : Fin 17
  /-- The call stack, apart from memory (R27). -/
  stack : Vector Half 16
  /-- The delay timer (R28). -/
  dt : Byte
  /-- The sound timer (R28). -/
  st : Byte
  /-- Memory (R32). -/
  mem : Memory
  /-- The framebuffer (R29). -/
  fb : Framebuffer
  /-- The display dirty flag (R30). -/
  dirty : Bool
  /-- The keypad: true while the key is down (R31). -/
  keys : Vector Bool 16
  /-- The fault status: the machine is halted when it is not `none` (R34, 60_exceptions R223). -/
  fault : FaultStatus
  /-- A `load` has succeeded (R35). -/
  loaded : Bool
  /-- A `step` has been made (R35). -/
  started : Bool
  /-- The MODEL's own field, not the spec's: how many random bytes have been drawn, the argument of the
  free value `Config.drawByte` (00_scope R13; notes/assumptions/1.md). -/
  draws : Nat
  deriving DecidableEq, Repr

/-- The reasons to stop with a fault: NONE. No access, decode or arithmetic can fault (20_memory R51,
30_encoding R84, 60_exceptions R221), and a stack error is a state with `fault` set (R222), not a stop. -/
inductive Fault where
  deriving DecidableEq, Repr

/-- The reasons to refuse. -/
inductive Refusal where
  /-- An instruction that has no meaning in this model yet: raised only by an arm of `exec`, and by none of them
  now. Safe. -/
  | notModelled (mnemonic : String)
  /-- `step` before a successful `load`: raised by `step` alone, since 70_reset_and_hazards R262 refuses it.
  Safe: nothing can be proved of a run that holds it. -/
  | stepBeforeLoad
  /-- `load` after a successful `load` or after a `step`: raised by the host action `load` alone (R262). Safe. -/
  | loadNotAdmitted
  deriving DecidableEq, Repr

/-- The state after `create()`, field by field as 10_state R39 gives it. `draws` is the model's own field:
its 0 is a DESIGN CHOICE (notes/assumptions/1.md). -/
def State.reset : State where
  v := Vector.replicate 16 0
  i := 0
  pc := BitVec.ofNat 16 Config.progBase
  sp := 0
  stack := Vector.replicate 16 0
  dt := 0
  st := 0
  mem := []
  fb := Vector.replicate 2048 false
  dirty := false
  keys := Vector.replicate 16 false
  fault := .none
  loaded := false
  started := false
  draws := 0

end Sys2Proof.Machine
end

