-- ==== Sys2Proof/Machine/Operands.lean ====
section
/-! DEFINITION. Every operand form (30_encoding R76): what an instruction reads, and the values it forms from
what it reads. All are unsigned (00_scope R9). -/

namespace Sys2Proof.Machine

/-- V[x] (10_state R20). -/
def State.getV (s : State) (x : Reg) : Byte := s.v.get x

/-- keys[k] (10_state R31). -/
def State.keyDown (s : State) (k : Key) : Bool := s.keys.get k

/-- The key that a register selects, its low nibble (44_timers_keypad R190). UNVERIFIED, unsafe for
registers above 15: the spec's decision D5 (notes/assumptions/6.md). -/
def keyIndex (b : Byte) : Key := ⟨b.toNat % 16, Nat.mod_lt _ (by decide)⟩

/-- The least key that is down, if any is (R196). UNVERIFIED, unsafe when several are down: the spec's
decision D6 (notes/assumptions/7.md). -/
def State.leastKeyDown (s : State) : Option Key := (List.finRange 16).find? fun k => s.keyDown k

/-- The value that Fx0A stores for a key: its index (R196). -/
def keyValue (k : Key) : Byte := BitVec.ofNat 8 k.val

/-- The memory byte at I + k, the address masked to 12 bits (20_memory R51). -/
def State.byteAtI (s : State) (k : Nat) : Byte := s.mem.read (s.i.toNat + k)

/-- The word at PC: the bytes at PC and PC + 1, each address masked, high byte first (30_encoding R71). -/
def State.fetchWord (s : State) : Half := wordOfBytes (s.mem.read s.pc.toNat) (s.mem.read (s.pc.toNat + 1))

/-- Fx29: the address of the glyph of a digit, the low nibble of the register (42_index_memory R152). -/
def glyphAddress (b : Byte) : Half := BitVec.ofNat 16 (Config.fontBase + b.toNat % 16 * 5)

/-- Fx1E: I + V[x] modulo 4096 (R151). -/
def indexSum (i : Half) (a : Byte) : Half := BitVec.ofNat 16 ((i.toNat + a.toNat) % 4096)

/-- Fx33: the hundreds, tens and units of a byte, in the order they are stored (R153). -/
def bcdDigits (v : Byte) : List Byte :=
  [BitVec.ofNat 8 (v.toNat / 100), BitVec.ofNat 8 (v.toNat / 10 % 10), BitVec.ofNat 8 (v.toNat % 10)]

/-- Fx55: the bytes of V0 to V[x], in order (R154). -/
def State.regsUpTo (s : State) (x : Reg) : List Byte := s.v.toList.take (x.val + 1)

/-- Fx65: the register file with V0 to V[x] replaced by the bytes at I to I + x (R155). -/
def State.loadedRegs (s : State) (x : Reg) : Vector Byte 16 :=
  Vector.ofFn fun k => if k ≤ x then s.byteAtI k.val else s.getV k

/-- Dxyn: the start column, wrapped into the framebuffer (43_display R171, R173). -/
def startCol (b : Byte) : Nat := b.toNat % 64

/-- Dxyn: the start row, taken modulo DRAW_Y_WRAP (R173). -/
def startRow (yWrap : Nat) (b : Byte) : Nat := b.toNat % yWrap

/-- The offset of a cell, row-major (10_state R29). -/
def cellIndex (col : Fin 64) (row : Fin 32) : Fin 2048 := ⟨row.val * 64 + col.val, by omega⟩

/-- fb[col][row] (10_state R29). -/
def Framebuffer.cell (fb : Framebuffer) (col : Fin 64) (row : Fin 32) : Bool := fb.get (cellIndex col row)

/-- fb[col][row] of a state (10_state R29). -/
def State.pixel (s : State) (col : Fin 64) (row : Fin 32) : Bool := Framebuffer.cell s.fb col row

end Sys2Proof.Machine
end

