-- ==== Sys2Proof/Machine/Ops.lean ====
section
/-! DEFINITION. The named operations that the meanings share: the fetch advance, writing registers, skipping, the
call stack, taking an exception, memory transfers and drawing. -/

namespace Sys2Proof.Machine

/-- What a meaning answers. -/
abbrev Result := Host.Outcome State Fault Refusal

/-! ### The fetch advance, and completing an instruction -/

/-- The fetch advance, modulo 2^16 (30_encoding R72, 10_state R25). -/
def State.advance (s : State) : State := { s with pc := s.pc + 2 }

/-- An instruction that completes: its body acts on the state after the fetch advance, so that the PC it sees is
the advanced one (00_scope R14, 30_encoding R72, R73). -/
def retire (s : State) (body : State → State) : Result := .next (body s.advance)

/-- TAKING AN EXCEPTION (60_exceptions R220, R222): the state before the step with only `fault` set.
Nothing else is written, not even the fetch advance; nothing is saved, no mode changes and control goes to no
handler. There is no return from it (R224). It is a next state, the halted one. UNVERIFIED, safe where `fault = none` is
a premise: the spec's decision D7 (notes/assumptions/8.md). -/
def raise (e : FaultStatus) (s : State) : Result := .next { s with fault := e }

/-- Whether the machine is halted (60_exceptions R223). -/
def State.halted (s : State) : Bool := s.fault != .none

/-- Whether the host may request a step (70_reset_and_hazards R262). -/
def State.stepAdmitted (s : State) : Bool := s.loaded

/-- The first write of a step (30_encoding R73, 10_state R35). -/
def State.markStarted (s : State) : State := { s with started := true }

/-! ### Registers -/

/-- `V[x] <- b` (00_scope R10). -/
def State.setV (s : State) (x : Reg) (b : Byte) : State := { s with v := s.v.set x.val b x.isLt }

/-- `V[x] <- b`, then `VF <- flag`: the flag is the last write, so that it stays when x = F (00_scope R14, 41_alu
R126). UNVERIFIED, unsafe for x = F: the spec's decision D4 (notes/assumptions/5.md). -/
def State.setVFlag (s : State) (x : Reg) (b flag : Byte) : State := (s.setV x b).setV vf flag

/-- `I <- a` (10_state R23). -/
def State.setI (s : State) (a : Half) : State := { s with i := a }

/-! ### Control flow -/

/-- `PC <- target` (40_flow R100): no target is aligned, checked or masked. -/
def State.jumpTo (s : State) (target : Half) : State := { s with pc := target }

/-- `if c: PC <- (PC + 2) mod 0x10000` (40_flow R105). -/
def State.skipIf (s : State) (c : Bool) : State := if c then { s with pc := s.pc + 2 } else s

/-- `PC <- (PC − 2) mod 0x10000`, the rollback of Fx0A (44_timers_keypad R196). -/
def State.rollback (s : State) : State := { s with pc := s.pc - 2 }

/-- `stack[SP] <- PC; SP <- SP + 1`, or nothing when SP = 16 (40_flow R102). -/
def State.pushPc (s : State) : Option State :=
  if h : s.sp.val < 16 then
    some { s with stack := s.stack.set s.sp.val s.pc h, sp := ⟨s.sp.val + 1, by omega⟩ }
  else none

/-- `SP <- SP − 1; PC <- stack[SP]`, or nothing when SP = 0. The entry keeps its value (R101, 10_state R27). -/
def State.popPc (s : State) : Option State :=
  if h : 0 < s.sp.val then
    some { s with pc := s.stack.get ⟨s.sp.val - 1, by omega⟩, sp := ⟨s.sp.val - 1, by omega⟩ }
  else none

/-! ### Random, memory transfers, timers -/

/-- The byte that the next draw yields, a free value (00_scope R13). -/
def State.drawnByte (s : State) : Byte := Config.drawByte s.draws

/-- The state after a draw: the next draw is another free value (00_scope R13, notes/assumptions/1.md). -/
def State.consumeDraw (s : State) : State := { s with draws := s.draws + 1 }

/-- Bytes stored at I, I + 1, ..., each address masked; I is unchanged (42_index_memory R153, R154). -/
def State.storeAtI (s : State) (bytes : List Byte) : State := { s with mem := s.mem.writeBytes s.i.toNat bytes }

/-- V0 to V[x] loaded from I to I + x; I is unchanged (42_index_memory R155). -/
def State.loadFromI (s : State) (x : Reg) : State := { s with v := s.loadedRegs x }

/-- `DT <- b` (44_timers_keypad R194). -/
def State.setDt (s : State) (b : Byte) : State := { s with dt := b }

/-- `ST <- b` (44_timers_keypad R195). -/
def State.setSt (s : State) (b : Byte) : State := { s with st := b }

/-! ### Display -/

/-- Every cell 0; the dirty flag is set only where CLEAR_SETS_DIRTY says so (43_display R170). -/
def State.clearScreen (setsDirty : Bool) (s : State) : State :=
  { s with fb := Vector.replicate 2048 false, dirty := s.dirty || setsDirty }

/-- What the loops of Dxyn carry (43_display R171). -/
structure DrawAcc where
  fb : Framebuffer
  collision : Bool
  touched : Bool
  deriving DecidableEq, Repr

/-- A set sprite bit on a cell: a set cell collides, and the cell is inverted (R171). -/
def DrawAcc.flip (acc : DrawAcc) (col : Fin 64) (row : Fin 32) : DrawAcc :=
  { acc with
    fb := acc.fb.set (cellIndex col row).val (!Framebuffer.cell acc.fb col row) (cellIndex col row).isLt
    collision := acc.collision || Framebuffer.cell acc.fb col row }

/-- Column j of a sprite row with byte b: clipped at the right edge, the bits read MSB-first (R171, R173). -/
def drawColumn (b : Byte) (x0 : Nat) (row : Fin 32) (acc : DrawAcc) (j : Nat) : DrawAcc :=
  if h : x0 + j < 64 then if b.getLsbD (7 - j) then acc.flip ⟨x0 + j, h⟩ row else acc else acc

/-- The 8 columns of a sprite row (R171). -/
def drawRowBits (b : Byte) (x0 : Nat) (row : Fin 32) (acc : DrawAcc) : DrawAcc :=
  (List.range 8).foldl (drawColumn b x0 row) acc

/-- Row i of a sprite: clipped at the bottom, else it touches the frame (R171, R172). UNVERIFIED, unsafe for a
row whose bits are all 0: the spec's decision D3 (notes/assumptions/4.md). -/
def drawSpriteRow (byteAt : Nat → Byte) (x0 y0 : Nat) (acc : DrawAcc) (i : Nat) : DrawAcc :=
  if h : y0 + i < 32 then drawRowBits (byteAt i) x0 ⟨y0 + i, h⟩ { acc with touched := true } else acc

/-- The n rows of a sprite whose row i is `byteAt i` (R171). -/
def drawRows (byteAt : Nat → Byte) (x0 y0 n : Nat) (acc : DrawAcc) : DrawAcc :=
  (List.range n).foldl (drawSpriteRow byteAt x0 y0) acc

/-- The drawing of a sprite of n rows at the memory from I on, its start taken from two register values
(R171, R173, R174). VF is the last write. -/
def State.drawSprite (yWrap : Nat) (vx vy : Byte) (n : Nat) (s : State) : State :=
  let acc := drawRows s.byteAtI (startCol vx) (startRow yWrap vy) n ⟨s.fb, false, false⟩
  { s with fb := acc.fb, dirty := s.dirty || acc.touched }.setV vf (collisionFlag acc.collision)

end Sys2Proof.Machine
end

