-- ==== Sys2Proof/Machine/Alu.lean ====
section
/-! DEFINITION. Register loads, arithmetic, logic and the random draw (41_alu). All arithmetic is unsigned and
modulo 2^8 (R133). -/

namespace Sys2Proof.Machine

/-- 6xnn (41_alu R120). -/
def execLdImm (x : Reg) (nn : Byte) (s : State) : Result := retire s fun s => s.setV x nn

/-- 7xnn (R121): no flag. -/
def execAddImm (x : Reg) (nn : Byte) (s : State) : Result := retire s fun s => s.setV x (s.getV x + nn)

/-- 8xy0 (R122). -/
def execLdReg (x y : Reg) (s : State) : Result := retire s fun s => s.setV x (s.getV y)

/-- 8xy1 (R123): VF is not written unless x = F. UNVERIFIED, unsafe: the spec's decision D20
(notes/assumptions/14.md), as for 8xy2 and 8xy3. -/
def execOrReg (x y : Reg) (s : State) : Result := retire s fun s => s.setV x (s.getV x ||| s.getV y)

/-- 8xy2 (R124): VF is not written unless x = F. -/
def execAndReg (x y : Reg) (s : State) : Result := retire s fun s => s.setV x (s.getV x &&& s.getV y)

/-- 8xy3 (R125): VF is not written unless x = F. -/
def execXorReg (x y : Reg) (s : State) : Result := retire s fun s => s.setV x (s.getV x ^^^ s.getV y)

/-- 8xy4 (R127). -/
def execAddReg (x y : Reg) (s : State) : Result :=
  retire s fun s => s.setVFlag x (s.getV x + s.getV y) (carryFlag (s.getV x) (s.getV y))

/-- 8xy5 (R128). -/
def execSub (x y : Reg) (s : State) : Result :=
  retire s fun s => s.setVFlag x (s.getV x - s.getV y) (noBorrowFlag (s.getV x) (s.getV y))

/-- 8xy6 (R129): V[x] is shifted, y is ignored (R126). -/
def execShr (x _y : Reg) (s : State) : Result :=
  retire s fun s => s.setVFlag x (s.getV x >>> 1) (lowBitFlag (s.getV x))

/-- 8xy7 (R130). -/
def execSubn (x y : Reg) (s : State) : Result :=
  retire s fun s => s.setVFlag x (s.getV y - s.getV x) (noBorrowFlag (s.getV y) (s.getV x))

/-- 8xyE (R131): V[x] is shifted, y is ignored (R126). -/
def execShl (x _y : Reg) (s : State) : Result :=
  retire s fun s => s.setVFlag x (s.getV x <<< 1) (highBitFlag (s.getV x))

/-- Cxnn (R132): the drawn byte is a free value (00_scope R13, notes/assumptions/1.md). -/
def execRnd (x : Reg) (nn : Byte) (s : State) : Result :=
  retire s fun s => s.consumeDraw.setV x (s.drawnByte &&& nn)

end Sys2Proof.Machine
end

