-- ==== Sys2Proof/Machine/Display.lean ====
section
/-! DEFINITION. The display instructions (43_display). -/

namespace Sys2Proof.Machine

/-- 00E0 (43_display R170). -/
def execCls (s : State) : Result := retire s fun s => s.clearScreen clearSetsDirty

/-- Dxyn (R171): the coordinates are the old V[x] and V[y]; I is unchanged. -/
def execDrw (x y : Reg) (n : BitVec 4) (s : State) : Result :=
  retire s fun s => s.drawSprite drawYWrap (s.getV x) (s.getV y) n.toNat

end Sys2Proof.Machine
end

