-- ==== Sys2Proof/Machine/Flow.lean ====
section
/-! DEFINITION. Control flow (40_flow): call, return, jumps and skips. -/

namespace Sys2Proof.Machine

/-- 00EE (40_flow R101): StackUnderflow when SP = 0. -/
def execRet (s : State) : Result :=
  match s.advance.popPc with
  | some s' => .next s'
  | none => raise .stackUnderflow s

/-- 1nnn (R103). -/
def execJp (nnn : Addr12) (s : State) : Result := retire s fun s => s.jumpTo (zext16 nnn)

/-- 2nnn (R102): the advanced PC is pushed; StackOverflow when SP = 16. -/
def execCall (nnn : Addr12) (s : State) : Result :=
  match s.advance.pushPc with
  | some s' => .next (s'.jumpTo (zext16 nnn))
  | none => raise .stackOverflow s

/-- 3xnn (R105). -/
def execSeImm (x : Reg) (nn : Byte) (s : State) : Result := retire s fun s => s.skipIf (s.getV x == nn)

/-- 4xnn (R106). -/
def execSneImm (x : Reg) (nn : Byte) (s : State) : Result := retire s fun s => s.skipIf (s.getV x != nn)

/-- 5xy0 (R107). -/
def execSeReg (x y : Reg) (s : State) : Result := retire s fun s => s.skipIf (s.getV x == s.getV y)

/-- 9xy0 (R108). -/
def execSneReg (x y : Reg) (s : State) : Result := retire s fun s => s.skipIf (s.getV x != s.getV y)

/-- Bnnn (R104): JUMP_ADDS_V0 is false, so V[0] is not read (notes/assumptions/16.md). -/
def execJpV0 (nnn : Addr12) (s : State) : Result := retire s fun s => s.jumpTo (zext16 nnn)

end Sys2Proof.Machine
end

