-- ==== Sys2Proof/Machine/Index.lean ====
section
/-! DEFINITION. The index register and the memory transfers (42_index_memory). -/

namespace Sys2Proof.Machine

/-- Annn (42_index_memory R150). -/
def execLdI (nnn : Addr12) (s : State) : Result := retire s fun s => s.setI (zext16 nnn)

/-- Fx1E (R151): the sum and the flag are from the old I and the old V[x]; VF is the last write. -/
def execAddI (x : Reg) (s : State) : Result :=
  retire s fun s => (s.setI (indexSum s.i (s.getV x))).setV vf (indexCarryFlag s.i (s.getV x))

/-- Fx29 (R152). -/
def execLdF (x : Reg) (s : State) : Result := retire s fun s => s.setI (glyphAddress (s.getV x))

/-- Fx33 (R153). -/
def execLdB (x : Reg) (s : State) : Result := retire s fun s => s.storeAtI (bcdDigits (s.getV x))

/-- Fx55 (R154): LOADSTORE_INCREMENTS_I is false, so I is unchanged (notes/assumptions/16.md). -/
def execLdMemV (x : Reg) (s : State) : Result := retire s fun s => s.storeAtI (s.regsUpTo x)

/-- Fx65 (R155): LOADSTORE_INCREMENTS_I is false, so I is unchanged (notes/assumptions/16.md). -/
def execLdVMem (x : Reg) (s : State) : Result := retire s fun s => s.loadFromI x

end Sys2Proof.Machine
end

