-- ==== Sys2Proof/Machine/KeysTimers.lean ====
section
/-! DEFINITION. The keypad and timer instructions (44_timers_keypad). -/

namespace Sys2Proof.Machine

/-- Ex9E (44_timers_keypad R191). -/
def execSkp (x : Reg) (s : State) : Result := retire s fun s => s.skipIf (s.keyDown (keyIndex (s.getV x)))

/-- ExA1 (R192). -/
def execSknp (x : Reg) (s : State) : Result := retire s fun s => s.skipIf (!s.keyDown (keyIndex (s.getV x)))

/-- Fx07 (R193). -/
def execLdVDt (x : Reg) (s : State) : Result := retire s fun s => s.setV x s.dt

/-- What Fx0A does after the fetch advance: the least key down is stored, and with no key down PC is rolled back,
so that the same instruction runs at the next step (R196). The keypad is not changed. -/
def State.waitKey (s : State) (x : Reg) : State :=
  match s.leastKeyDown with
  | some k => s.setV x (keyValue k)
  | none => s.rollback

/-- Fx0A (R196). -/
def execLdVK (x : Reg) (s : State) : Result := retire s fun s => s.waitKey x

/-- Fx15 (R194). -/
def execLdDtV (x : Reg) (s : State) : Result := retire s fun s => s.setDt (s.getV x)

/-- Fx18 (R195). -/
def execLdStV (x : Reg) (s : State) : Result := retire s fun s => s.setSt (s.getV x)

end Sys2Proof.Machine
end

