-- ==== Sys2Proof/Machine/Unassigned.lean ====
section
/-! DEFINITION. The unassigned words (49_unassigned R210): no-ops that still advance PC. -/

namespace Sys2Proof.Machine

/-- 0nnn other than 00E0 and 00EE (49_unassigned R210, 30_encoding R81). -/
def execUnassigned0 (_nnn : Addr12) (s : State) : Result := retire s fun s => s

/-- 5xyN with N ≠ 0 (R210, R82). -/
def execUnassigned5 (_x _y : Reg) (_n : BitVec 4) (s : State) : Result := retire s fun s => s

/-- 8xyN with N in 8, 9, A, B, C, D, F (R210, R83). -/
def execUnassigned8 (_x _y : Reg) (_n : BitVec 4) (s : State) : Result := retire s fun s => s

/-- 9xyN with N ≠ 0 (R210, R82). -/
def execUnassigned9 (_x _y : Reg) (_n : BitVec 4) (s : State) : Result := retire s fun s => s

/-- ExNN with NN not 9E or A1 (R210, R83). -/
def execUnassignedE (_x : Reg) (_nn : Byte) (s : State) : Result := retire s fun s => s

/-- FxNN with an NN that 30_encoding R80 does not list (R210, R83). -/
def execUnassignedF (_x : Reg) (_nn : Byte) (s : State) : Result := retire s fun s => s

end Sys2Proof.Machine
end

