-- ==== Sys2Proof/Machine/Dispatch.lean ====
section
/-! DEFINITION. The dispatch: one arm for each constructor of Instr, one direct call of its meaning. -/

namespace Sys2Proof.Machine

/-- What an instruction does, from the state in which it stands at PC (30_encoding R73: the fetch advance is the
meaning's own first act, so that a raise leaves PC where it was). -/
def exec (i : Instr) (s : State) : Host.Outcome State Fault Refusal :=
  match i with
  | .cls => Sys2Proof.Machine.execCls s
  | .ret => Sys2Proof.Machine.execRet s
  | .jp nnn => Sys2Proof.Machine.execJp nnn s
  | .call nnn => Sys2Proof.Machine.execCall nnn s
  | .seImm x nn => Sys2Proof.Machine.execSeImm x nn s
  | .sneImm x nn => Sys2Proof.Machine.execSneImm x nn s
  | .seReg x y => Sys2Proof.Machine.execSeReg x y s
  | .ldImm x nn => Sys2Proof.Machine.execLdImm x nn s
  | .addImm x nn => Sys2Proof.Machine.execAddImm x nn s
  | .ldReg x y => Sys2Proof.Machine.execLdReg x y s
  | .orReg x y => Sys2Proof.Machine.execOrReg x y s
  | .andReg x y => Sys2Proof.Machine.execAndReg x y s
  | .xorReg x y => Sys2Proof.Machine.execXorReg x y s
  | .addReg x y => Sys2Proof.Machine.execAddReg x y s
  | .sub x y => Sys2Proof.Machine.execSub x y s
  | .shr x y => Sys2Proof.Machine.execShr x y s
  | .subn x y => Sys2Proof.Machine.execSubn x y s
  | .shl x y => Sys2Proof.Machine.execShl x y s
  | .sneReg x y => Sys2Proof.Machine.execSneReg x y s
  | .ldI nnn => Sys2Proof.Machine.execLdI nnn s
  | .jpV0 nnn => Sys2Proof.Machine.execJpV0 nnn s
  | .rnd x nn => Sys2Proof.Machine.execRnd x nn s
  | .drw x y n => Sys2Proof.Machine.execDrw x y n s
  | .skp x => Sys2Proof.Machine.execSkp x s
  | .sknp x => Sys2Proof.Machine.execSknp x s
  | .ldVDt x => Sys2Proof.Machine.execLdVDt x s
  | .ldVK x => Sys2Proof.Machine.execLdVK x s
  | .ldDtV x => Sys2Proof.Machine.execLdDtV x s
  | .ldStV x => Sys2Proof.Machine.execLdStV x s
  | .addI x => Sys2Proof.Machine.execAddI x s
  | .ldF x => Sys2Proof.Machine.execLdF x s
  | .ldB x => Sys2Proof.Machine.execLdB x s
  | .ldMemV x => Sys2Proof.Machine.execLdMemV x s
  | .ldVMem x => Sys2Proof.Machine.execLdVMem x s
  | .unassigned0 nnn => Sys2Proof.Machine.execUnassigned0 nnn s
  | .unassigned5 x y n => Sys2Proof.Machine.execUnassigned5 x y n s
  | .unassigned8 x y n => Sys2Proof.Machine.execUnassigned8 x y n s
  | .unassigned9 x y n => Sys2Proof.Machine.execUnassigned9 x y n s
  | .unassignedE x nn => Sys2Proof.Machine.execUnassignedE x nn s
  | .unassignedF x nn => Sys2Proof.Machine.execUnassignedF x nn s

end Sys2Proof.Machine
end

