-- ==== Sys2Proof/Machine/Step.lean ====
section
/-! DEFINITION. One step (30_encoding R73), under the host's protocol (70_reset_and_hazards R262), and the
placing of an instruction where the next step fetches. -/

namespace Sys2Proof.Machine

/-- `step()` (30_encoding R73, 60_exceptions R241). Refused before a successful load (70_reset_and_hazards
R262). A halted machine fetches nothing and changes nothing (60_exceptions R223); else the word at PC is fetched,
decoded and executed. `started` is set first. -/
def step (s : State) : Host.Outcome State Fault Refusal :=
  if s.stepAdmitted then
    if s.halted then .next s.markStarted
    else exec (decode s.fetchWord) s.markStarted
  else .refused .stepBeforeLoad

/-- The state with an instruction where `step` fetches next, the load protocol satisfied and no fault, so that
the very next step runs it: it stands for the `load` that brings a program from outside (70_reset_and_hazards
R261, R262; notes/assumptions/10.md). -/
def State.withFetchWord (s : State) (nbits w : Nat) : State :=
  { s with
    mem := s.mem.writeBytes s.pc.toNat [hiByte (tableWord nbits w), loByte (tableWord nbits w)]
    loaded := true
    fault := .none }

end Sys2Proof.Machine
end

