-- ==== Sys2Proof/Machine/HostActions.lean ====
section
/-! DEFINITION. The block's interface (60_exceptions R230, R231, R240 to R246; 70_reset_and_hazards R260 to R262):
every transaction of R240 as a plain function on State. Host actions happen between steps, never inside one. -/

namespace Sys2Proof.Machine

/-- `create()` (70_reset_and_hazards R260): the only initial state. -/
def create : State := State.reset

/-! ### Transactions that change the state -/

/-- `tick_timers` on one timer: decremented, floored at 0 (60_exceptions R230). -/
def tickTimer (t : Byte) : Byte := if t.toNat > 0 then t - 1 else 0

/-- `tick_timers()` (60_exceptions R230): it acts the same on a halted machine. -/
def State.tickTimers (s : State) : State := { s with dt := tickTimer s.dt, st := tickTimer s.st }

/-- `key_down(k)` (R242). -/
def State.pressKey (s : State) (k : Key) : State := { s with keys := s.keys.set k.val true k.isLt }

/-- `key_up(k)` (R242). -/
def State.releaseKey (s : State) (k : Key) : State := { s with keys := s.keys.set k.val false k.isLt }

/-- `clear_dirty` (R245). -/
def State.clearDirty (s : State) : State := { s with dirty := false }

/-- The typed result of a load (R240, 70_reset_and_hazards R261). -/
inductive LoadResult where
  | ok
  | romTooLarge
  deriving DecidableEq, Repr

/-- `load(bytes)` (70_reset_and_hazards R261): more than 0xE00 bytes change nothing; else the bytes go to 0x200 on
and `loaded` becomes true. -/
def State.loadRom (s : State) (bytes : List Byte) : State × LoadResult :=
  if bytes.length > Config.romMax then (s, .romTooLarge)
  else ({ s with mem := s.mem.writeBytes Config.progBase bytes, loaded := true }, .ok)

/-- Whether the host may request a load (R262). UNVERIFIED, safe: the spec's decision D16
(notes/assumptions/9.md). -/
def State.loadAdmitted (s : State) : Bool := !s.loaded && !s.started

/-! ### Reads: they change nothing (60_exceptions R243, R244) -/

/-- The framebuffer as 2048 bytes of 0 or 1, cell (col, row) at offset row·64 + col (R244). -/
def State.readFramebuffer (s : State) : List Byte := s.fb.toList.map fun b => if b then 1 else 0

/-- The sound output: active exactly when ST > 0 (R231). -/
def State.soundActive (s : State) : Bool := decide (s.st.toNat > 0)

/-- The fault status port: 0 None, 1 StackOverflow, 2 StackUnderflow (R240, decision D22). -/
def faultCode : FaultStatus → BitVec 2
  | .none => 0
  | .stackOverflow => 1
  | .stackUnderflow => 2

/-! ### The interface as one relation -/

/-- A transaction of R240, but for `create`. -/
inductive Action where
  | load (bytes : List Byte)
  | step
  | tickTimers
  | keyDown (k : Key)
  | keyUp (k : Key)
  | clearDirty
  | readFramebuffer
  | readDirty
  | readDt
  | readSt
  | readSound
  | readFault
  deriving DecidableEq, Repr

/-- What a transaction answers. -/
inductive Response where
  | done
  | load (r : LoadResult)
  | frame (cells : List Byte)
  | bit (b : Bool)
  | byte (b : Byte)
  | status (c : BitVec 2)
  deriving DecidableEq, Repr

/-- One transaction (R240), under the protocol of 70_reset_and_hazards R262: the state after it and its
answer. -/
def act (a : Action) (s : State) : Host.Outcome (State × Response) Fault Refusal :=
  match a with
  | .load bytes =>
    if s.loadAdmitted then .next ((s.loadRom bytes).1, .load (s.loadRom bytes).2) else .refused .loadNotAdmitted
  | .step =>
    match step s with
    | .next s' => .next (s', .done)
    | .fault r => .fault r
    | .refused r => .refused r
  | .tickTimers => .next (s.tickTimers, .done)
  | .keyDown k => .next (s.pressKey k, .done)
  | .keyUp k => .next (s.releaseKey k, .done)
  | .clearDirty => .next (s.clearDirty, .done)
  | .readFramebuffer => .next (s, .frame s.readFramebuffer)
  | .readDirty => .next (s, .bit s.dirty)
  | .readDt => .next (s, .byte s.dt)
  | .readSt => .next (s, .byte s.st)
  | .readSound => .next (s, .bit s.soundActive)
  | .readFault => .next (s, .status (faultCode s.fault))

/-- A sequence of transactions, one after another: all there is to a run of the block (20_memory R59). -/
def runActions : List Action → State → Host.Outcome State Fault Refusal
  | [], s => .next s
  | a :: rest, s =>
    match act a s with
    | .next (s', _) => runActions rest s'
    | .fault r => .fault r
    | .refused r => .refused r

end Sys2Proof.Machine
end

