-- ==== Sys2Proof/Safety.lean ====
section
/-! DEFINITION. The terms that claims use: the parts of the state, what a step may change, the invariant, the
reachable states, and what a program can and cannot tell apart. -/

namespace Sys2Proof.Machine

/-! ### The parts of the state, and frames -/

/-- The pieces of state, one name for each register, stack entry, memory byte, cell and key (10_state). -/
inductive StatePart where
  | v (x : Reg)
  | i
  | pc
  | sp
  | stack (k : Fin 16)
  | dt
  | st
  | mem (a : Fin 4096)
  | cell (col : Fin 64) (row : Fin 32)
  | dirty
  | key (k : Key)
  | fault
  | loaded
  | started
  | draws
  deriving DecidableEq, Repr

/-- The value of a part, as a number (the fault status by its port code, 60_exceptions R240). -/
def StatePart.value (s : State) : StatePart → Nat
  | .v x => (s.getV x).toNat
  | .i => s.i.toNat
  | .pc => s.pc.toNat
  | .sp => s.sp.val
  | .stack k => (s.stack.get k).toNat
  | .dt => s.dt.toNat
  | .st => s.st.toNat
  | .mem a => (s.mem.read a.val).toNat
  | .cell col row => (s.pixel col row).toNat
  | .dirty => s.dirty.toNat
  | .key k => (s.keyDown k).toNat
  | .fault => (faultCode s.fault).toNat
  | .loaded => s.loaded.toNat
  | .started => s.started.toNat
  | .draws => s.draws

/-- Every part outside `may` is unchanged: every byte of memory, every cell, every register (the frame). -/
def ChangesOnly (may : StatePart → Prop) (s t : State) : Prop := ∀ p, ¬ may p → StatePart.value t p = StatePart.value s p

/-- The address of byte k of a transfer at I (20_memory R51, R56). -/
def transferAddr (s : State) (k : Nat) : Nat := maskAddr (s.i.toNat + k)

/-- The parts that an instruction may write, besides PC: the tables of 10_state R22, R37 and 20_memory R56, and the
writers that 10_state R23 to R31 and R34 name. -/
def mayWrite (s : State) : Instr → StatePart → Prop
  | .cls, p => ∃ col row, p = .cell col row
  | .ret, p => p = .sp ∨ p = .fault
  | .call _, p => p = .sp ∨ p = .fault ∨ ∃ k : Fin 16, k.val = s.sp.val ∧ p = .stack k
  | .ldImm x _, p | .addImm x _, p | .ldReg x _, p | .orReg x _, p | .andReg x _, p | .xorReg x _, p
  | .ldVDt x, p | .ldVK x, p => p = .v x
  | .rnd x _, p => p = .v x ∨ p = .draws
  | .addReg x _, p | .sub x _, p | .shr x _, p | .subn x _, p | .shl x _, p => p = .v x ∨ p = .v vf
  | .ldI _, p | .ldF _, p => p = .i
  | .addI _, p => p = .i ∨ p = .v vf
  | .drw _ _ _, p => p = .v vf ∨ p = .dirty ∨ ∃ col row, p = .cell col row
  | .ldDtV _, p => p = .dt
  | .ldStV _, p => p = .st
  | .ldB _, p => ∃ a k, k < 3 ∧ a.val = transferAddr s k ∧ p = .mem a
  | .ldMemV x, p => ∃ a k, k ≤ x.val ∧ a.val = transferAddr s k ∧ p = .mem a
  | .ldVMem x, p => ∃ y, y ≤ x ∧ p = .v y
  | .jp _, _ | .seImm _ _, _ | .sneImm _ _, _ | .seReg _ _, _ | .sneReg _ _, _ | .jpV0 _, _ | .skp _, _ | .sknp _, _
  | .unassigned0 _, _ | .unassigned5 _ _ _, _ | .unassigned8 _ _ _, _ | .unassigned9 _ _ _, _
  | .unassignedE _ _, _ | .unassignedF _ _, _ => False

/-! ### Sprites -/

/-- Whether a sprite of n rows at column x0 and row y0, its row i the byte `byteAt i`, has a set bit on a cell
(43_display R171: MSB-first, clipped at the edges because a cell is inside the framebuffer). -/
def spriteBit (byteAt : Nat → Byte) (x0 y0 n : Nat) (col : Fin 64) (row : Fin 32) : Bool :=
  decide (x0 ≤ col.val) && decide (col.val < x0 + 8) && decide (y0 ≤ row.val) && decide (row.val < y0 + n) &&
    (byteAt (row.val - y0)).getLsbD (7 - (col.val - x0))

/-! ### Unassigned words -/

/-- The spaces of unassigned words, as the table of 30_encoding R83 lists them, on the number of a word. -/
def UnassignedSpace (w : Nat) : Prop :=
  (w / 4096 = 0x0 ∧ w ≠ 0x00E0 ∧ w ≠ 0x00EE) ∨
  (w / 4096 = 0x5 ∧ w % 16 ≠ 0) ∨
  (w / 4096 = 0x8 ∧ w % 16 ∈ [0x8, 0x9, 0xA, 0xB, 0xC, 0xD, 0xF]) ∨
  (w / 4096 = 0x9 ∧ w % 16 ≠ 0) ∨
  (w / 4096 = 0xE ∧ w % 256 ∉ [0x9E, 0xA1]) ∨
  (w / 4096 = 0xF ∧ w % 256 ∉ [0x07, 0x0A, 0x15, 0x18, 0x1E, 0x29, 0x33, 0x55, 0x65])

/-! ### The invariant and the reachable states -/

/-- What holds of the machine at `create()` and after every step and host action. -/
structure State.Inv (s : State) : Prop where
  /-- Memory keeps its canonical form. -/
  memWf : s.mem.wf = true
  /-- I is below 0x1000 (10_state R23). -/
  iLow : s.i.toNat < 0x1000
  /-- A stack overflow is recorded with SP = 16 and PC at a 2nnn (60_exceptions R220, R222). -/
  overflowAtCall : s.fault = .stackOverflow → s.sp.val = 16 ∧ ∃ nnn, decode s.fetchWord = .call nnn
  /-- A stack underflow is recorded with SP = 0 and PC at a 00EE (R220, R222). -/
  underflowAtRet : s.fault = .stackUnderflow → s.sp.val = 0 ∧ decode s.fetchWord = .ret
  /-- No step comes before a load (70_reset_and_hazards R262). -/
  startedLoaded : s.started = true → s.loaded = true
  /-- Only a step can fault (10_state R34). -/
  faultStarted : s.fault ≠ .none → s.started = true

/-- The states of the runs of 20_memory R59: from `create()`, by transactions that the protocol admits. -/
inductive Reachable : State → Prop where
  | create : Reachable create
  | act {s t : State} {a : Action} {r : Response} : Reachable s → act a s = .next (t, r) → Reachable t

/-! ### What a program sees -/

/-- Two states that no program can tell apart: they may differ in the dirty flag (10_state R30), ST (R28), `started`
(R35) and the stack entries at or above SP (R27), which no instruction reads. -/
structure SameToProgram (s t : State) : Prop where
  v : s.v = t.v
  i : s.i = t.i
  pc : s.pc = t.pc
  sp : s.sp = t.sp
  stack : ∀ k : Fin 16, k.val < s.sp.val → s.stack.get k = t.stack.get k
  dt : s.dt = t.dt
  mem : s.mem = t.mem
  fb : s.fb = t.fb
  keys : s.keys = t.keys
  fault : s.fault = t.fault
  loaded : s.loaded = t.loaded
  draws : s.draws = t.draws

end Sys2Proof.Machine
end

