-- ==== Sys2Proof/Certificates/Slice0/Obligations.lean ====
section
/-! DEFINITION. The statements for the provers, from the numbered rules of spec/. A frame is said by `ChangesOnly`, which
covers every register, every stack entry, every byte of memory, every cell and every key. -/

open Sys2Proof Sys2Proof.Machine

/-! ### Encoding, fetch and the step -/

/-- A few words written out from the patterns of 30_encoding R80 decode to their instructions. -/
def Obligations.SampleWordsDecode : Prop :=
  decode 0x00E0 = .cls ∧ decode 0x1ABC = .jp 0xABC ∧ decode 0x8126 = .shr 1 2 ∧ decode 0x8128 = .unassigned8 1 2 8 ∧
    decode 0xA300 = .ldI 0x300 ∧ decode 0xDAB3 = .drw 0xA 0xB 3 ∧ decode 0xF30A = .ldVK 3 ∧ decode 0x6A7B = .ldImm 0xA 0x7B

/-- Decoding what the encoder writes for a well-formed instruction gives it back, with every field at every value
(30_encoding R74, R75, R78, R80). -/
def Obligations.DecodeOfEncode : Prop := ∀ i : Instr, i.wellFormed = true → decode (encode i) = i

/-- Every word of 16 bits is the encoding of the well-formed instruction it decodes to: no word is illegal (30_encoding R78, R84), and
no bit is dropped. That no bit is dropped is the model's choice and no rule of the spec: the syntax keeps the fields that a meaning
ignores, y of 8xy6 and 8xyE and the free bits of unassigned words (notes/assumptions/15.md). -/
def Obligations.EncodeOfDecode : Prop := ∀ w : Half, (decode w).wellFormed = true ∧ encode (decode w) = w

/-- The decoder answers an unassigned instruction exactly on the spaces of the table of 30_encoding R83. That the 0 family
is decoded on whole words and 5xyN, 9xyN on N = 0 are the spec's decisions D9 and D10 (notes/assumptions/11.md). -/
def Obligations.UnassignedWordsAreTheResidue : Prop :=
  ∀ w : Half, (decode w).isUnassigned = true ↔ UnassignedSpace w.toNat

/-- When the bytes at PC and PC + 1 (each address masked) decode to i, a loaded machine without a fault steps to what i does, with
`started` set first (30_encoding R71, R73). That exec takes the state before the fetch advance, which is then i's own first act, is
the model's choice: R73 advances in the step, before it executes (notes/assumptions/18.md). -/
def Obligations.StepRunsDecodedInstruction : Prop :=
  ∀ (s : State) (i : Instr), s.loaded = true → s.fault = .none →
    decodeBytes [s.mem.read s.pc.toNat, s.mem.read (s.pc.toNat + 1)] = .ok (i, []) →
      step s = exec i { s with started := true }

/-- An instruction stored high byte first at PC, at any PC (odd, 0xFFF, or 0x1000 and more, where the addresses wrap), is the one that
the step runs (20_memory R54, R55, 30_encoding R71). The 16-bit PC is the spec's decision D8 (notes/assumptions/12.md); that exec
takes the state before the fetch advance is the model's choice (notes/assumptions/18.md). -/
def Obligations.StepRunsStoredEncoding : Prop :=
  ∀ (s : State) (i : Instr), s.loaded = true → s.fault = .none → i.wellFormed = true →
    step { s with mem := s.mem.writeBytes s.pc.toNat (encodeBytes i) } =
      exec i { s with mem := s.mem.writeBytes s.pc.toNat (encodeBytes i), started := true }

/-- The bytes that Fx55 stores are the bytes that a later fetch at I reads (20_memory R62, the spec's decision D12): with
x ≥ 1 the word at I is V0 then V1. -/
def Obligations.StoredBytesAreFetched : Prop :=
  ∀ (x : Reg) (s : State), 1 ≤ x.val →
    ∃ t, exec (.ldMemV x) s = .next t ∧
      (State.fetchWord { t with pc := s.i }).toNat = (s.getV 0).toNat * 256 + (s.getV 1).toNat

/-! ### Control flow -/

/-- 1nnn and Bnnn: PC becomes nnn, whatever V0 holds, and nothing else changes (40_flow R103, R104). -/
def Obligations.JumpsSetPcToNnn : Prop :=
  ∀ (nnn : Addr12) (s : State),
    (∃ t, exec (.jp nnn) s = .next t ∧ t.pc.toNat = nnn.toNat ∧ ChangesOnly (fun p => p = .pc) s t) ∧
    (∃ t, exec (.jpV0 nnn) s = .next t ∧ t.pc.toNat = nnn.toNat ∧ ChangesOnly (fun p => p = .pc) s t)

/-- 3xnn and 4xnn: PC advances by 4 when the comparison holds and by 2 when it does not, modulo 2^16; nothing else changes
(40_flow R105, R106). -/
def Obligations.ImmediateSkips : Prop :=
  ∀ (x : Reg) (nn : Byte) (s : State),
    (∃ t, exec (.seImm x nn) s = .next t ∧
      t.pc.toNat = (s.pc.toNat + if (s.getV x).toNat = nn.toNat then 4 else 2) % 0x10000 ∧
      ChangesOnly (fun p => p = .pc) s t) ∧
    (∃ t, exec (.sneImm x nn) s = .next t ∧
      t.pc.toNat = (s.pc.toNat + if (s.getV x).toNat ≠ nn.toNat then 4 else 2) % 0x10000 ∧
      ChangesOnly (fun p => p = .pc) s t)

/-- 5xy0 and 9xy0: PC advances by 4 when the comparison holds and by 2 when it does not, modulo 2^16; nothing else changes
(40_flow R107, R108). -/
def Obligations.RegisterSkips : Prop :=
  ∀ (x y : Reg) (s : State),
    (∃ t, exec (.seReg x y) s = .next t ∧
      t.pc.toNat = (s.pc.toNat + if (s.getV x).toNat = (s.getV y).toNat then 4 else 2) % 0x10000 ∧
      ChangesOnly (fun p => p = .pc) s t) ∧
    (∃ t, exec (.sneReg x y) s = .next t ∧
      t.pc.toNat = (s.pc.toNat + if (s.getV x).toNat ≠ (s.getV y).toNat then 4 else 2) % 0x10000 ∧
      ChangesOnly (fun p => p = .pc) s t)

/-- 2nnn with room on the stack: the address after the call is pushed, not masked, and PC becomes nnn; every other stack entry
and everything else is unchanged (40_flow R102; the unmasked push is the spec's decision D8). With SP = 16 it raises: nothing
but `fault` changes (the spec's decision D7, notes/assumptions/8.md). -/
def Obligations.CallPushesOrOverflows : Prop :=
  ∀ (nnn : Addr12) (s : State),
    (∀ h : s.sp.val < 16, ∃ t, exec (.call nnn) s = .next t ∧ t.pc.toNat = nnn.toNat ∧ t.sp.val = s.sp.val + 1 ∧
      (t.stack.get ⟨s.sp.val, h⟩).toNat = (s.pc.toNat + 2) % 0x10000 ∧
      ChangesOnly (fun p => p = .pc ∨ p = .sp ∨ p = .stack ⟨s.sp.val, h⟩) s t) ∧
    (s.sp.val = 16 → ∃ t, exec (.call nnn) s = .next t ∧ t.fault = .stackOverflow ∧ ChangesOnly (fun p => p = .fault) s t)

/-- 00EE with an entry on the stack: SP decreases, PC becomes the popped entry, and nothing else changes (40_flow R101). That the popped
entry keeps its value is the spec's decision D21 (10_state R27, notes/assumptions/20.md). With SP = 0 it raises: nothing but `fault`
changes (the spec's decision D7, notes/assumptions/8.md). -/
def Obligations.ReturnPopsOrUnderflows : Prop :=
  ∀ s : State,
    (∀ h : 0 < s.sp.val, ∃ t, exec .ret s = .next t ∧ t.sp.val + 1 = s.sp.val ∧
      t.pc = s.stack.get ⟨s.sp.val - 1, by omega⟩ ∧ ChangesOnly (fun p => p = .pc ∨ p = .sp) s t) ∧
    (s.sp.val = 0 → ∃ t, exec .ret s = .next t ∧ t.fault = .stackUnderflow ∧ ChangesOnly (fun p => p = .fault) s t)

/-- 2nnn then 00EE, whatever ran between that left SP and the stack as the call left them: PC is the value just after the call's
own fetch advance and SP is as before the call (40_flow R102, the source's own property). -/
def Obligations.ReturnUndoesCall : Prop :=
  ∀ (nnn : Addr12) (s : State), s.sp.val < 16 →
    ∃ t, exec (.call nnn) s = .next t ∧
      ∀ u : State, u.sp = t.sp → u.stack = t.stack →
        ∃ w, exec .ret u = .next w ∧ w.pc.toNat = (s.pc.toNat + 2) % 0x10000 ∧ w.sp = s.sp ∧
          ChangesOnly (fun p => p = .pc ∨ p = .sp) u w

/-! ### Registers and arithmetic -/

/-- 6xnn and 8xy0: V[x] becomes nn or V[y]; PC advances and nothing else changes (41_alu R120, R122). -/
def Obligations.RegisterLoads : Prop :=
  ∀ (x y : Reg) (nn : Byte) (s : State),
    (∃ t, exec (.ldImm x nn) s = .next t ∧ t.getV x = nn ∧ t.pc = s.pc + 2 ∧
      ChangesOnly (fun p => p = .pc ∨ p = .v x) s t) ∧
    (∃ t, exec (.ldReg x y) s = .next t ∧ t.getV x = s.getV y ∧ t.pc = s.pc + 2 ∧
      ChangesOnly (fun p => p = .pc ∨ p = .v x) s t)

/-- 7xnn: V[x] becomes the sum modulo 256; VF is not written unless it is V[x] itself (41_alu R121). -/
def Obligations.AddImmediateWrapsWithoutFlag : Prop :=
  ∀ (x : Reg) (nn : Byte) (s : State),
    ∃ t, exec (.addImm x nn) s = .next t ∧ (t.getV x).toNat = ((s.getV x).toNat + nn.toNat) % 256 ∧ t.pc = s.pc + 2 ∧
      ChangesOnly (fun p => p = .pc ∨ p = .v x) s t

/-- 8xy1, 8xy2 and 8xy3, bit by bit; VF is not written unless it is V[x] itself (41_alu R123 to R125; that VF stays is the
spec's decision D20, notes/assumptions/14.md). -/
def Obligations.LogicOperations : Prop :=
  ∀ (x y : Reg) (s : State),
    (∃ t, exec (.orReg x y) s = .next t ∧
      (∀ k, k < 8 → (t.getV x).getLsbD k = ((s.getV x).getLsbD k || (s.getV y).getLsbD k)) ∧ t.pc = s.pc + 2 ∧
      ChangesOnly (fun p => p = .pc ∨ p = .v x) s t) ∧
    (∃ t, exec (.andReg x y) s = .next t ∧
      (∀ k, k < 8 → (t.getV x).getLsbD k = ((s.getV x).getLsbD k && (s.getV y).getLsbD k)) ∧ t.pc = s.pc + 2 ∧
      ChangesOnly (fun p => p = .pc ∨ p = .v x) s t) ∧
    (∃ t, exec (.xorReg x y) s = .next t ∧
      (∀ k, k < 8 → (t.getV x).getLsbD k = ((s.getV x).getLsbD k ^^ (s.getV y).getLsbD k)) ∧ t.pc = s.pc + 2 ∧
      ChangesOnly (fun p => p = .pc ∨ p = .v x) s t)

/-- 8xy4: VF is the carry of the old operands, and V[x] the sum modulo 256 where x is not F (41_alu R127; that the flag wins
when x = F is the spec's decision D4, notes/assumptions/5.md). -/
def Obligations.AddSetsCarry : Prop :=
  ∀ (x y : Reg) (s : State),
    ∃ t, exec (.addReg x y) s = .next t ∧
      (t.getV vf).toNat = (if (s.getV x).toNat + (s.getV y).toNat > 255 then 1 else 0) ∧
      (x ≠ vf → (t.getV x).toNat = ((s.getV x).toNat + (s.getV y).toNat) % 256) ∧ t.pc = s.pc + 2 ∧
      ChangesOnly (fun p => p = .pc ∨ p = .v x ∨ p = .v vf) s t

/-- 8xy5 and 8xy7: VF is 1 exactly when there is no borrow (equal operands give 1), and V[x] the difference modulo 256 where x is
not F (41_alu R128, R130; that the flag wins when x = F is the spec's decision D4, notes/assumptions/5.md). -/
def Obligations.SubtractionsSetNoBorrow : Prop :=
  ∀ (x y : Reg) (s : State),
    (∃ t, exec (.sub x y) s = .next t ∧
      (t.getV vf).toNat = (if (s.getV x).toNat ≥ (s.getV y).toNat then 1 else 0) ∧
      (x ≠ vf → (t.getV x).toNat = ((s.getV x).toNat + 256 - (s.getV y).toNat) % 256) ∧ t.pc = s.pc + 2 ∧
      ChangesOnly (fun p => p = .pc ∨ p = .v x ∨ p = .v vf) s t) ∧
    (∃ t, exec (.subn x y) s = .next t ∧
      (t.getV vf).toNat = (if (s.getV y).toNat ≥ (s.getV x).toNat then 1 else 0) ∧
      (x ≠ vf → (t.getV x).toNat = ((s.getV y).toNat + 256 - (s.getV x).toNat) % 256) ∧ t.pc = s.pc + 2 ∧
      ChangesOnly (fun p => p = .pc ∨ p = .v x ∨ p = .v vf) s t)

/-- 8xy6 and 8xyE: VF is the bit shifted out of the old V[x], and V[x] the shifted value where x is not F; V[y] plays no part
(41_alu R129, R131; that the flag wins when x = F is the spec's decision D4, notes/assumptions/5.md). -/
def Obligations.ShiftsMoveTheOutgoingBit : Prop :=
  ∀ (x y : Reg) (s : State),
    (∃ t, exec (.shr x y) s = .next t ∧ (t.getV vf).toNat = (s.getV x).toNat % 2 ∧
      (x ≠ vf → (t.getV x).toNat = (s.getV x).toNat / 2) ∧ t.pc = s.pc + 2 ∧
      ChangesOnly (fun p => p = .pc ∨ p = .v x ∨ p = .v vf) s t) ∧
    (∃ t, exec (.shl x y) s = .next t ∧ (t.getV vf).toNat = (s.getV x).toNat / 128 ∧
      (x ≠ vf → (t.getV x).toNat = (s.getV x).toNat * 2 % 256) ∧ t.pc = s.pc + 2 ∧
      ChangesOnly (fun p => p = .pc ∨ p = .v x ∨ p = .v vf) s t)

/-- Cxnn: V[x] is the drawn byte AND nn, so every bit that nn clears is 0, and the next draw is a new free value (41_alu R132,
00_scope R13). The drawn byte is free: the counter `draws` that names it is the model's own (notes/assumptions/1.md). -/
def Obligations.RandomIsMaskedByNn : Prop :=
  ∀ (x : Reg) (nn : Byte) (s : State),
    ∃ t, exec (.rnd x nn) s = .next t ∧
      (∀ k, k < 8 → (t.getV x).getLsbD k = ((Config.drawByte s.draws).getLsbD k && nn.getLsbD k)) ∧
      t.draws = s.draws + 1 ∧ t.pc = s.pc + 2 ∧ ChangesOnly (fun p => p = .pc ∨ p = .v x ∨ p = .draws) s t

/-! ### Index and memory -/

/-- Annn and Fx29: I becomes nnn, or the address of the glyph of V[x]'s low nibble; nothing else changes (42_index_memory R150,
R152). -/
def Obligations.IndexLoads : Prop :=
  ∀ (nnn : Addr12) (x : Reg) (s : State),
    (∃ t, exec (.ldI nnn) s = .next t ∧ t.i.toNat = nnn.toNat ∧ t.pc = s.pc + 2 ∧
      ChangesOnly (fun p => p = .pc ∨ p = .i) s t) ∧
    (∃ t, exec (.ldF x) s = .next t ∧ t.i.toNat = 0x050 + (s.getV x).toNat % 16 * 5 ∧ t.pc = s.pc + 2 ∧
      ChangesOnly (fun p => p = .pc ∨ p = .i) s t)

/-- Fx1E: I is the sum of the old I and the old V[x] modulo 4096, VF its carry out of 12 bits, for every x, F included
(42_index_memory R151; that both read the old values is the spec's decision D4, notes/assumptions/5.md). -/
def Obligations.AddToIndexSetsCarry : Prop :=
  ∀ (x : Reg) (s : State),
    ∃ t, exec (.addI x) s = .next t ∧ t.i.toNat = (s.i.toNat + (s.getV x).toNat) % 4096 ∧
      (t.getV vf).toNat = (if s.i.toNat + (s.getV x).toNat ≥ 4096 then 1 else 0) ∧ t.pc = s.pc + 2 ∧
      ChangesOnly (fun p => p = .pc ∨ p = .i ∨ p = .v vf) s t

/-- Fx33: the hundreds, tens and units of V[x] are stored at I, I + 1 and I + 2, each address masked, and no other byte of memory
and no register changes (42_index_memory R153). -/
def Obligations.BcdStoresThreeDigits : Prop :=
  ∀ (x : Reg) (s : State),
    ∃ t, exec (.ldB x) s = .next t ∧
      (t.mem.read (transferAddr s 0)).toNat = (s.getV x).toNat / 100 ∧
      (t.mem.read (transferAddr s 1)).toNat = (s.getV x).toNat / 10 % 10 ∧
      (t.mem.read (transferAddr s 2)).toNat = (s.getV x).toNat % 10 ∧ t.pc = s.pc + 2 ∧
      ChangesOnly (fun p => p = .pc ∨ ∃ k a, k < 3 ∧ a.val = transferAddr s k ∧ p = .mem a) s t

/-- Fx55: V0 to V[x] are stored at I to I + x, each address masked, and no other byte of memory and no register, I among them,
changes (42_index_memory R154). -/
def Obligations.StoreRegistersAtI : Prop :=
  ∀ (x : Reg) (s : State),
    ∃ t, exec (.ldMemV x) s = .next t ∧ (∀ k : Reg, k ≤ x → t.mem.read (transferAddr s k.val) = s.getV k) ∧
      t.pc = s.pc + 2 ∧
      ChangesOnly (fun p => p = .pc ∨ ∃ k a, k ≤ x.val ∧ a.val = transferAddr s k ∧ p = .mem a) s t

/-- Fx65: V0 to V[x] are loaded from I to I + x, each address masked; the other registers, I and memory do not change
(42_index_memory R155). -/
def Obligations.LoadRegistersFromI : Prop :=
  ∀ (x : Reg) (s : State),
    ∃ t, exec (.ldVMem x) s = .next t ∧ (∀ k : Reg, k ≤ x → t.getV k = s.mem.read (transferAddr s k.val)) ∧
      t.pc = s.pc + 2 ∧ ChangesOnly (fun p => p = .pc ∨ ∃ k, k ≤ x ∧ p = .v k) s t

/-- Fx55 and later Fx65 with the same I and memory: the registers V0 to V[x] hold what they held at the store (42_index_memory
R154, R155), also where the transfer wraps past 0xFFF. -/
def Obligations.LoadGivesBackStoredRegisters : Prop :=
  ∀ (x : Reg) (s : State),
    ∃ t, exec (.ldMemV x) s = .next t ∧
      ∀ u : State, u.i = s.i → (∀ a, u.mem.read a = t.mem.read a) →
        ∃ w, exec (.ldVMem x) u = .next w ∧ ∀ k : Reg, k ≤ x → w.getV k = s.getV k

/-! ### Display -/

/-- 00E0: every cell is 0; the dirty flag and every register are unchanged (43_display R170). -/
def Obligations.ClearScreenClearsEveryCell : Prop :=
  ∀ s : State,
    ∃ t, exec .cls s = .next t ∧ (∀ col row, t.pixel col row = false) ∧ t.dirty = s.dirty ∧ t.pc = s.pc + 2 ∧
      ChangesOnly (fun p => p = .pc ∨ ∃ col row, p = .cell col row) s t

/-- Dxyn: a cell is inverted exactly where the sprite, read from I on, has a set bit on it; VF is 1 exactly when such a cell was
set; the dirty flag is set exactly when n ≥ 1, and never cleared; nothing else changes (43_display R171 to R174). The start row
modulo 32 is the spec's decision D2 (notes/assumptions/3.md), the test of the dirty flag its decision D3 (notes/assumptions/4.md),
and the coordinates are the old registers, F included, by its decision D4 (notes/assumptions/5.md). -/
def Obligations.DrawInvertsSpriteCells : Prop :=
  ∀ (x y : Reg) (n : BitVec 4) (s : State),
    let bit := spriteBit (fun k => s.mem.read (transferAddr s k)) ((s.getV x).toNat % 64) ((s.getV y).toNat % 32) n.toNat
    ∃ t, exec (.drw x y n) s = .next t ∧
      (∀ col row, t.pixel col row = (s.pixel col row ^^ bit col row)) ∧
      ((∃ col row, s.pixel col row = true ∧ bit col row = true) → (t.getV vf).toNat = 1) ∧
      ((∀ col row, bit col row = true → s.pixel col row = false) → (t.getV vf).toNat = 0) ∧
      (t.dirty = true ↔ s.dirty = true ∨ n.toNat ≥ 1) ∧ t.pc = s.pc + 2 ∧
      ChangesOnly (fun p => p = .pc ∨ p = .v vf ∨ p = .dirty ∨ ∃ col row, p = .cell col row) s t

/-- Drawing the same sprite twice at the same place restores the framebuffer, and one of the two draws reports a collision exactly when
the sprite has a set bit that is not clipped (43_display R171). The sprite stands at V[y] modulo 32, the spec's decision D2
(notes/assumptions/3.md). The coordinate registers are not VF, which the first draw writes, so that the second draw would have
another place; a single draw with x = F or y = F is in DrawInvertsSpriteCells. The rule's own sentence about the second draw alone
fails: see SecondDrawAlwaysCollides and notes/assumptions/13.md. -/
def Obligations.DrawTwiceRestoresTheFrame : Prop :=
  ∀ (x y : Reg) (n : BitVec 4) (s : State), x ≠ vf → y ≠ vf →
    ∃ t u, exec (.drw x y n) s = .next t ∧ exec (.drw x y n) t = .next u ∧
      (∀ col row, u.pixel col row = s.pixel col row) ∧
      (((t.getV vf).toNat = 1 ∨ (u.getV vf).toNat = 1) ↔
        ∃ col row, spriteBit s.byteAtI ((s.getV x).toNat % 64) ((s.getV y).toNat % 32) n.toNat col row = true)

/-- The corner case of 43_display R171 as it is written, of the second draw alone and any framebuffer, the sprite at V[y] modulo 32 (the
spec's decision D2, notes/assumptions/3.md). It FAILS by the rule's own pseudocode: where the first draw turns set cells off, the
second turns them on and collides with nothing. The model follows the pseudocode (notes/assumptions/13.md). -/
def Obligations.SecondDrawAlwaysCollides : Prop :=
  ∀ (x y : Reg) (n : BitVec 4) (s t u : State), x ≠ vf → y ≠ vf →
    exec (.drw x y n) s = .next t → exec (.drw x y n) t = .next u →
      (∃ col row, spriteBit s.byteAtI ((s.getV x).toNat % 64) ((s.getV y).toNat % 32) n.toNat col row = true) →
        (u.getV vf).toNat = 1

/-! ### Keypad and timers -/

/-- Ex9E and ExA1: PC advances by 4 when the key of V[x]'s low nibble is down, or up, and by 2 when it is not; nothing else
changes, the keypad among it (44_timers_keypad R190 to R192; the low nibble is the spec's decision D5,
notes/assumptions/6.md). -/
def Obligations.KeySkips : Prop :=
  ∀ (x : Reg) (k : Key) (s : State), (s.getV x).toNat % 16 = k.val →
    (∃ t, exec (.skp x) s = .next t ∧
      t.pc.toNat = (s.pc.toNat + if s.keyDown k = true then 4 else 2) % 0x10000 ∧ ChangesOnly (fun p => p = .pc) s t) ∧
    (∃ t, exec (.sknp x) s = .next t ∧
      t.pc.toNat = (s.pc.toNat + if s.keyDown k = false then 4 else 2) % 0x10000 ∧ ChangesOnly (fun p => p = .pc) s t)

/-- Fx07, Fx15 and Fx18: V[x] becomes DT, or DT or ST becomes V[x]; no timer moves otherwise (44_timers_keypad R193 to R195). -/
def Obligations.TimerMoves : Prop :=
  ∀ (x : Reg) (s : State),
    (∃ t, exec (.ldVDt x) s = .next t ∧ t.getV x = s.dt ∧ t.pc = s.pc + 2 ∧
      ChangesOnly (fun p => p = .pc ∨ p = .v x) s t) ∧
    (∃ t, exec (.ldDtV x) s = .next t ∧ t.dt = s.getV x ∧ t.pc = s.pc + 2 ∧
      ChangesOnly (fun p => p = .pc ∨ p = .dt) s t) ∧
    (∃ t, exec (.ldStV x) s = .next t ∧ t.st = s.getV x ∧ t.pc = s.pc + 2 ∧
      ChangesOnly (fun p => p = .pc ∨ p = .st) s t)

/-- Fx0A: with a key down, V[x] is the least index of a key that is down, and no key changes (the spec's decisions D6 and D25,
notes/assumptions/7.md); with no key down nothing at all changes, PC among it (44_timers_keypad R196). -/
def Obligations.WaitForKeyTakesLeastOrWaits : Prop :=
  ∀ (x : Reg) (s : State),
    (∀ k : Key, s.keyDown k = true → (∀ j, j < k → s.keyDown j = false) →
      ∃ t, exec (.ldVK x) s = .next t ∧ (t.getV x).toNat = k.val ∧ t.pc = s.pc + 2 ∧
        ChangesOnly (fun p => p = .pc ∨ p = .v x) s t) ∧
    ((∀ k, s.keyDown k = false) → exec (.ldVK x) s = .next s)

/-- A machine at an Fx0A with no key down stays there for any number of steps: the infinite wait is admitted
(70_reset_and_hazards R273). -/
def Obligations.WaitForKeyCanWaitForever : Prop :=
  ∀ (x : Reg) (s : State) (n : Nat), s.loaded = true → s.started = true → s.fault = .none → decode s.fetchWord = .ldVK x →
    (∀ k, s.keyDown k = false) → core.run n s = .next s

/-! ### Unassigned words -/

/-- Every unassigned instruction does nothing but the fetch advance, and they are the instructions of every word in the spaces of
30_encoding R83 (49_unassigned R210). That the 0 family is decoded on whole words and 5xyN, 9xyN on N = 0 are the spec's decisions
D9 and D10 (30_encoding R81, R82, notes/assumptions/11.md). -/
def Obligations.UnassignedIsNoOp : Prop :=
  (∀ (i : Instr) (s : State), i.isUnassigned = true →
    ∃ t, exec i s = .next t ∧ t.pc = s.pc + 2 ∧ ChangesOnly (fun p => p = .pc) s t) ∧
  (∀ w : Half, UnassignedSpace w.toNat → (decode w).isUnassigned = true)

/-! ### Exceptions and the halted machine -/

/-- A step of a loaded machine without a fault answers a next state, whatever the word at PC: StackOverflow is recorded exactly for
a 2nnn at SP = 16 and StackUnderflow exactly for a 00EE at SP = 0 (60_exceptions R220, R221; the form of the errors is the spec's
decision D7, notes/assumptions/8.md). -/
def Obligations.OnlyCallAndReturnRaise : Prop :=
  ∀ s : State, s.loaded = true → s.fault = .none →
    ∃ t, step s = .next t ∧
      (t.fault = .stackOverflow ↔ s.sp.val = 16 ∧ ∃ nnn, decode s.fetchWord = .call nnn) ∧
      (t.fault = .stackUnderflow ↔ s.sp.val = 0 ∧ decode s.fetchWord = .ret)

/-- A raise is precise: the step that records a fault changes nothing but `fault` and `started`, not even PC (60_exceptions R222, the
spec's decision D7, notes/assumptions/8.md). -/
def Obligations.RaiseCommitsNothing : Prop :=
  ∀ s t : State, s.fault = .none → step s = .next t → t.fault ≠ .none → t = { s with fault := t.fault, started := true }

/-- A halted machine stays halted: any number of steps changes nothing but `started` (60_exceptions R223, the spec's decision D7,
notes/assumptions/8.md). -/
def Obligations.HaltedMachineStaysHalted : Prop :=
  ∀ (s : State) (n : Nat), s.loaded = true → s.fault ≠ .none → core.run (n + 1) s = .next { s with started := true }

/-- No transaction clears or changes a recorded fault (10_state R34, 60_exceptions R224; the spec's decision D7,
notes/assumptions/8.md). -/
def Obligations.FaultIsNeverCleared : Prop :=
  ∀ (a : Action) (s t : State) (r : Response), act a s = .next (t, r) → s.fault ≠ .none → t.fault = s.fault

/-! ### Rules of the whole machine -/

/-- The frame of every instruction at once: besides PC, an instruction changes only the parts that the tables of 10_state R22, R37 and
20_memory R56, and the rules R23 to R31 and R34, let it write, and Cxnn also the counter `draws`, the model's own field
(notes/assumptions/1.md). The spec's decisions behind it: a popped stack entry is kept, D21 (notes/assumptions/20.md), a raise sets
only `fault`, D7 (notes/assumptions/8.md), the logic operations leave VF, D20 (notes/assumptions/14.md), and Fx0A clears no key, D25
(notes/assumptions/7.md). -/
def Obligations.EveryInstructionKeepsItsFootprint : Prop :=
  ∀ (i : Instr) (s t : State), exec i s = .next t → ChangesOnly (fun p => p = .pc ∨ mayWrite s i p) s t

/-- No step presses or releases a key, unloads the program or clears the dirty flag (10_state R30, R31, R35): only the host does. That
Fx0A clears no key is the spec's decision D25 (notes/assumptions/7.md), `loaded` and `started` are its decision D16
(notes/assumptions/9.md). -/
def Obligations.StepLeavesTheHostsState : Prop :=
  ∀ s t : State, step s = .next t → t.keys = s.keys ∧ t.loaded = s.loaded ∧ t.started = true ∧
    (s.dirty = true → t.dirty = true)

/-- The invariant holds at `create()`: I below 0x1000 (10_state R23, R39), memory canonical, faults recorded where they are raised, the
protocol kept. The canonical form of memory is the model's choice (notes/assumptions/19.md); the fault clauses are the spec's
decision D7 (notes/assumptions/8.md), the protocol clauses its decision D16 (notes/assumptions/9.md). -/
def Obligations.CreateMeetsTheInvariant : Prop := create.Inv

/-- Every step keeps the invariant: I stays below 0x1000 (10_state R23), memory stays canonical, which is the model's choice of form
(notes/assumptions/19.md), a recorded fault stands unadvanced at the instruction that raised it with SP at its bound, which is the
spec's decision D7 (60_exceptions R220, R222; notes/assumptions/8.md), and no step precedes a load, its decision D16
(70_reset_and_hazards R262; notes/assumptions/9.md). -/
def Obligations.StepKeepsTheInvariant : Prop := ∀ s t : State, s.Inv → step s = .next t → t.Inv

/-- The invariant holds in every state of every run: after any transactions that the protocol admits, from `create()` (20_memory R59).
The canonical form of memory is the model's choice (notes/assumptions/19.md), the fault clauses are the spec's decision D7
(notes/assumptions/8.md), the protocol its decision D16 (notes/assumptions/9.md). The form of the transactions, functions beside
`step`, is the model's choice (notes/assumptions/17.md). -/
def Obligations.EveryReachableStateMeetsTheInvariant : Prop := ∀ s : State, Reachable s → s.Inv

/-- A program cannot tell states apart that differ only in the dirty flag, ST, `started` and the stack entries at or above SP: their
steps answer alike, and the states after them again differ in nothing else (10_state R27, R28, R30, R35). Popped entries are the
spec's decision D21 (notes/assumptions/20.md), `started` its decision D16 (notes/assumptions/9.md). -/
def Obligations.ProgramsCannotReadHostOutputs : Prop :=
  ∀ s s' t : State, SameToProgram s s' → step s = .next t → ∃ t', step s' = .next t' ∧ SameToProgram t t'

/-- A self-jump, 1nnn at an address that fetches as nnn and PC equal to nnn, never leaves: any number of steps changes nothing
(70_reset_and_hazards R265, the spec's decision D28). -/
def Obligations.SelfJumpNeverLeaves : Prop :=
  ∀ (nnn : Addr12) (s : State) (n : Nat), s.loaded = true → s.started = true → s.fault = .none →
    s.pc.toNat = nnn.toNat → decode s.fetchWord = .jp nnn → core.run n s = .next s

/-! ### Reset and the host interface -/

/-- `create()`: the registers, I, the stack, SP, the timers, the framebuffer and the keypad are zero, PC is 0x200, dirty is unset, and
memory is zero but for the FONT parameter at 0x050 to 0x09F (70_reset_and_hazards R260). That no fault is recorded and nothing was
loaded or stepped are the spec's decisions D7 and D16 (10_state R39; notes/assumptions/8.md, 9.md). Which bytes FONT has is
PRESUMED (notes/assumptions/2.md) and not part of the statement. -/
def Obligations.CreateGivesTheResetState : Prop :=
  (∀ x, create.getV x = 0) ∧ create.i = 0 ∧ create.pc = 0x200 ∧ create.sp = 0 ∧ (∀ k, create.stack.get k = 0) ∧
    create.dt = 0 ∧ create.st = 0 ∧ (∀ col row, create.pixel col row = false) ∧ create.dirty = false ∧
    (∀ k, create.keyDown k = false) ∧ (∀ a, a < 0x050 → create.mem.read a = 0) ∧
    (∀ a, 0x0A0 ≤ a → a < 0x1000 → create.mem.read a = 0) ∧
    (∀ k, k < 80 → create.mem.read (0x050 + k) = font.getD k 0) ∧
    create.fault = .none ∧ create.loaded = false ∧ create.started = false

/-- A step before a successful load is refused, and a step after one is not (70_reset_and_hazards R262; the spec's decision D16,
notes/assumptions/9.md). -/
def Obligations.StepIsRefusedExactlyBeforeLoad : Prop :=
  ∀ s : State, (s.loaded = false → step s = .refused .stepBeforeLoad) ∧ (s.loaded = true → ∃ t, step s = .next t)

/-- `load`: more than 0xE00 bytes change nothing and answer RomTooLarge; else byte k stands at 0x200 + k, `loaded` is set, every other
byte of memory and everything else is as before, and the answer is Ok (70_reset_and_hazards R261). -/
def Obligations.LoadWritesTheRom : Prop :=
  ∀ (s : State) (bytes : List Byte),
    (bytes.length > 0xE00 → s.loadRom bytes = (s, .romTooLarge)) ∧
    (bytes.length ≤ 0xE00 → ∃ t, s.loadRom bytes = (t, .ok) ∧ t.loaded = true ∧
      (∀ k (h : k < bytes.length), t.mem.read (0x200 + k) = bytes[k]) ∧
      ChangesOnly (fun p => p = .loaded ∨ ∃ a : Fin 4096, 0x200 ≤ a.val ∧ a.val < 0x200 + bytes.length ∧ p = .mem a) s t)

/-- `load` is admitted exactly while nothing was loaded and no step was made, so that a failed load may be tried again and a second
successful one may not (70_reset_and_hazards R262; the spec's decision D16, notes/assumptions/9.md). -/
def Obligations.LoadProtocol : Prop :=
  ∀ (s : State) (bytes : List Byte),
    (s.loaded = false → s.started = false →
      act (.load bytes) s = .next ((s.loadRom bytes).1, .load (s.loadRom bytes).2) ∧
      ((s.loadRom bytes).1.loaded = false ↔ (s.loadRom bytes).2 = .romTooLarge)) ∧
    (s.loaded = true ∨ s.started = true → act (.load bytes) s = .refused .loadNotAdmitted)

/-- `tick_timers` decrements both timers, floored at 0, and changes nothing else, halted or not; n of them subtract n, floored at 0
(60_exceptions R230). -/
def Obligations.TickTimersCountDownToZero : Prop :=
  ∀ (s : State) (n : Nat),
    act .tickTimers s = .next (s.tickTimers, .done) ∧ ChangesOnly (fun p => p = .dt ∨ p = .st) s s.tickTimers ∧
    ∃ t, runActions (List.replicate n .tickTimers) s = .next t ∧
      t.dt.toNat = s.dt.toNat - n ∧ t.st.toNat = s.st.toNat - n

/-- `key_down` and `key_up` set and clear one key and change nothing else, and no other transaction, a step among them, changes a key
(60_exceptions R242). -/
def Obligations.KeysChangeOnlyByKeyActions : Prop :=
  (∀ (s : State) (k : Key),
    (∃ t, act (.keyDown k) s = .next (t, .done) ∧ t.keyDown k = true ∧ ChangesOnly (fun p => p = .key k) s t) ∧
    (∃ t, act (.keyUp k) s = .next (t, .done) ∧ t.keyDown k = false ∧ ChangesOnly (fun p => p = .key k) s t)) ∧
  (∀ (a : Action) (s t : State) (r : Response), (∀ k, a ≠ .keyDown k ∧ a ≠ .keyUp k) → act a s = .next (t, r) → t.keys = s.keys)

/-- `clear_dirty` unsets the dirty flag and changes nothing else (60_exceptions R245). -/
def Obligations.ClearDirtyChangesOnlyDirty : Prop :=
  ∀ s : State, ∃ t, act .clearDirty s = .next (t, .done) ∧ t.dirty = false ∧ ChangesOnly (fun p => p = .dirty) s t

/-- The renderer reads 2048 bytes of 0 or 1, cell (col, row) at offset row·64 + col, the read changes no state, and no transaction but
a step changes the framebuffer (60_exceptions R244). -/
def Obligations.FramebufferReadIsRowMajor : Prop :=
  (∀ s : State, ∃ cells, act .readFramebuffer s = .next (s, .frame cells) ∧ cells.length = 2048 ∧
    ∀ (col : Fin 64) (row : Fin 32), cells[row.val * 64 + col.val]? = some (if s.pixel col row then 1 else 0)) ∧
  (∀ (a : Action) (s t : State) (r : Response), a ≠ .step → act a s = .next (t, r) → t.fb = s.fb)

/-- The host reads dirty, DT, ST and fault, and a read changes no state (60_exceptions R243). The codes of the fault port are those of
R240, the spec's decision D22; the sound output is active exactly while ST > 0 (R231). -/
def Obligations.StatusReadsChangeNothing : Prop :=
  ∀ s : State, act .readDirty s = .next (s, .bit s.dirty) ∧ act .readDt s = .next (s, .byte s.dt) ∧
    act .readSt s = .next (s, .byte s.st) ∧
    (∃ c, act .readFault s = .next (s, .status c) ∧ (c = 0 ↔ s.fault = .none) ∧ (c = 1 ↔ s.fault = .stackOverflow) ∧
      (c = 2 ↔ s.fault = .stackUnderflow)) ∧
    (∃ b, act .readSound s = .next (s, .bit b) ∧ (b = true ↔ s.st.toNat > 0))
end

