-- ==== Sys2Proof/Laws/Decode.lean ====
section
/-! SUPPORT. Laws of the fields and formats of an instruction word (30_encoding R74, R75). -/

namespace Sys2Proof

/-! ### The fields of a word, as numbers -/

theorem opField_toNat (w : Half) : (opField w).toNat = w.toNat / 4096 % 16 := by
  simp [opField, Nat.shiftRight_eq_div_pow]

theorem xField_val (w : Half) : (xField w).val = w.toNat / 256 % 16 := by
  simp [xField, Nat.shiftRight_eq_div_pow]

theorem yField_val (w : Half) : (yField w).val = w.toNat / 16 % 16 := by
  simp [yField, Nat.shiftRight_eq_div_pow]

theorem nField_toNat (w : Half) : (nField w).toNat = w.toNat % 16 := by
  simp [nField]

theorem nnField_toNat (w : Half) : (nnField w).toNat = w.toNat % 256 := by
  simp [nnField]

theorem nnnField_toNat (w : Half) : (nnnField w).toNat = w.toNat % 4096 := by
  simp [nnnField]

theorem hiByte_toNat (w : Half) : (hiByte w).toNat = w.toNat / 256 := by
  have := w.isLt
  simp [hiByte, Nat.shiftRight_eq_div_pow]
  omega

theorem loByte_toNat (w : Half) : (loByte w).toNat = w.toNat % 256 := by
  simp [loByte]

/-! ### The formats, as numbers -/

theorem toNat_append {n m : Nat} (a : BitVec n) (b : BitVec m) : (a ++ b).toNat = a.toNat * 2 ^ m + b.toNat := by
  rw [BitVec.toNat_append, ← Nat.shiftLeft_add_eq_or_of_lt b.isLt, Nat.shiftLeft_eq]

theorem wordOfBytes_toNat (hi lo : Byte) : (wordOfBytes hi lo).toNat = hi.toNat * 256 + lo.toNat :=
  toNat_append hi lo

theorem wordNNN_toNat (op : BitVec 4) (nnn : Addr12) : (wordNNN op nnn).toNat = op.toNat * 4096 + nnn.toNat :=
  toNat_append op nnn

theorem wordXNN_toNat (op : BitVec 4) (x : Reg) (nn : Byte) :
    (wordXNN op x nn).toNat = op.toNat * 4096 + x.val * 256 + nn.toNat := by
  have h1 : (wordXNN op x nn).toNat = (op ++ BitVec.ofFin (w := 4) x).toNat * 2 ^ 8 + nn.toNat := toNat_append _ nn
  have h2 : (op ++ BitVec.ofFin (w := 4) x).toNat = op.toNat * 2 ^ 4 + x.val := toNat_append op _
  rw [h1, h2]
  ring

theorem wordXYN_toNat (op : BitVec 4) (x y : Reg) (n : BitVec 4) :
    (wordXYN op x y n).toNat = op.toNat * 4096 + x.val * 256 + y.val * 16 + n.toNat := by
  have h1 : (wordXYN op x y n).toNat =
      (op ++ BitVec.ofFin (w := 4) x ++ BitVec.ofFin (w := 4) y).toNat * 2 ^ 4 + n.toNat := toNat_append _ n
  have h2 : (op ++ BitVec.ofFin (w := 4) x ++ BitVec.ofFin (w := 4) y).toNat =
      (op ++ BitVec.ofFin (w := 4) x).toNat * 2 ^ 4 + y.val := toNat_append _ _
  have h3 : (op ++ BitVec.ofFin (w := 4) x).toNat = op.toNat * 2 ^ 4 + x.val := toNat_append op _
  rw [h1, h2, h3]
  ring

/-! ### Each field of each format -/

@[simp] theorem opField_wordNNN (op : BitVec 4) (nnn : Addr12) : opField (wordNNN op nnn) = op := by
  have := op.isLt
  have := nnn.isLt
  apply BitVec.eq_of_toNat_eq
  rw [opField_toNat, wordNNN_toNat]
  omega

@[simp] theorem nnnField_wordNNN (op : BitVec 4) (nnn : Addr12) : nnnField (wordNNN op nnn) = nnn := by
  have := nnn.isLt
  apply BitVec.eq_of_toNat_eq
  rw [nnnField_toNat, wordNNN_toNat]
  omega

@[simp] theorem opField_wordXNN (op : BitVec 4) (x : Reg) (nn : Byte) : opField (wordXNN op x nn) = op := by
  have := op.isLt
  have := nn.isLt
  apply BitVec.eq_of_toNat_eq
  rw [opField_toNat, wordXNN_toNat]
  omega

@[simp] theorem xField_wordXNN (op : BitVec 4) (x : Reg) (nn : Byte) : xField (wordXNN op x nn) = x := by
  have := nn.isLt
  apply Fin.ext
  rw [xField_val, wordXNN_toNat]
  omega

@[simp] theorem nnField_wordXNN (op : BitVec 4) (x : Reg) (nn : Byte) : nnField (wordXNN op x nn) = nn := by
  have := nn.isLt
  apply BitVec.eq_of_toNat_eq
  rw [nnField_toNat, wordXNN_toNat]
  omega

@[simp] theorem opField_wordXYN (op : BitVec 4) (x y : Reg) (n : BitVec 4) : opField (wordXYN op x y n) = op := by
  have := op.isLt
  have := n.isLt
  apply BitVec.eq_of_toNat_eq
  rw [opField_toNat, wordXYN_toNat]
  omega

@[simp] theorem xField_wordXYN (op : BitVec 4) (x y : Reg) (n : BitVec 4) : xField (wordXYN op x y n) = x := by
  have := n.isLt
  apply Fin.ext
  rw [xField_val, wordXYN_toNat]
  omega

@[simp] theorem yField_wordXYN (op : BitVec 4) (x y : Reg) (n : BitVec 4) : yField (wordXYN op x y n) = y := by
  have := n.isLt
  apply Fin.ext
  rw [yField_val, wordXYN_toNat]
  omega

@[simp] theorem nField_wordXYN (op : BitVec 4) (x y : Reg) (n : BitVec 4) : nField (wordXYN op x y n) = n := by
  have := n.isLt
  apply BitVec.eq_of_toNat_eq
  rw [nField_toNat, wordXYN_toNat]
  omega

/-! ### A word is its fields, and its bytes -/

theorem wordNNN_fields (w : Half) : wordNNN (opField w) (nnnField w) = w := by
  have := w.isLt
  apply BitVec.eq_of_toNat_eq
  rw [wordNNN_toNat, opField_toNat, nnnField_toNat]
  omega

theorem wordXNN_fields (w : Half) : wordXNN (opField w) (xField w) (nnField w) = w := by
  have := w.isLt
  apply BitVec.eq_of_toNat_eq
  rw [wordXNN_toNat, opField_toNat, xField_val, nnField_toNat]
  omega

theorem wordXYN_fields (w : Half) : wordXYN (opField w) (xField w) (yField w) (nField w) = w := by
  have := w.isLt
  apply BitVec.eq_of_toNat_eq
  rw [wordXYN_toNat, opField_toNat, xField_val, yField_val, nField_toNat]
  omega

@[simp] theorem wordOfBytes_bytes (w : Half) : wordOfBytes (hiByte w) (loByte w) = w := by
  have := w.isLt
  apply BitVec.eq_of_toNat_eq
  rw [wordOfBytes_toNat, hiByte_toNat, loByte_toNat]
  omega

theorem decodeBytes_cons (hi lo : Byte) (rest : List Byte) :
    decodeBytes (hi :: lo :: rest) = .ok (decode (wordOfBytes hi lo), rest) := rfl

/-- Too few bytes for an instruction are rejected by name (30_encoding R70). -/
theorem decodeBytes_truncated (bytes : List Byte) (h : bytes.length < 2) :
    decodeBytes bytes = .error .truncated := by
  match bytes with
  | [] => rfl
  | [_] => rfl
  | _ :: _ :: _ => simp at h

/-- The table's numbering of a 16-bit word is the word itself. -/
theorem decodeTableWord_eq (w : Half) : decodeTableWord 16 w.toNat = some (decode w) := by
  have h : tableWord 16 w.toNat = w := by
    have := w.isLt
    apply BitVec.eq_of_toNat_eq
    simp [tableWord]
    exact this
  simp [decodeTableWord, h, decodeBytes_cons]

end Sys2Proof
end

