-- ==== Sys2Proof/Laws/State.lean ====
section
/-! SUPPORT. What each update of State leaves in each field: one lemma for each field of each update, so that no
proof unfolds an update. -/

namespace Sys2Proof.Machine

/-! ### advance -/

@[simp] theorem State.advance_v (s : State) : (s.advance).v = s.v := rfl
@[simp] theorem State.advance_i (s : State) : (s.advance).i = s.i := rfl
@[simp] theorem State.advance_pc (s : State) : (s.advance).pc = s.pc + 2 := rfl
@[simp] theorem State.advance_sp (s : State) : (s.advance).sp = s.sp := rfl
@[simp] theorem State.advance_stack (s : State) : (s.advance).stack = s.stack := rfl
@[simp] theorem State.advance_dt (s : State) : (s.advance).dt = s.dt := rfl
@[simp] theorem State.advance_st (s : State) : (s.advance).st = s.st := rfl
@[simp] theorem State.advance_mem (s : State) : (s.advance).mem = s.mem := rfl
@[simp] theorem State.advance_fb (s : State) : (s.advance).fb = s.fb := rfl
@[simp] theorem State.advance_dirty (s : State) : (s.advance).dirty = s.dirty := rfl
@[simp] theorem State.advance_keys (s : State) : (s.advance).keys = s.keys := rfl
@[simp] theorem State.advance_fault (s : State) : (s.advance).fault = s.fault := rfl
@[simp] theorem State.advance_loaded (s : State) : (s.advance).loaded = s.loaded := rfl
@[simp] theorem State.advance_started (s : State) : (s.advance).started = s.started := rfl
@[simp] theorem State.advance_draws (s : State) : (s.advance).draws = s.draws := rfl
@[simp] theorem State.advance_getV (s : State) (r : Reg) : (s.advance).getV r = s.getV r := rfl
@[simp] theorem State.advance_keyDown (s : State) (j : Key) : (s.advance).keyDown j = s.keyDown j := rfl
@[simp] theorem State.advance_pixel (s : State) (col : Fin 64) (row : Fin 32) : (s.advance).pixel col row = s.pixel col row := rfl
@[simp] theorem State.advance_byteAtI (s : State) (j : Nat) : (s.advance).byteAtI j = s.byteAtI j := rfl
@[simp] theorem State.advance_leastKeyDown (s : State) : (s.advance).leastKeyDown  = s.leastKeyDown := rfl

/-! ### markStarted -/

@[simp] theorem State.markStarted_v (s : State) : (s.markStarted).v = s.v := rfl
@[simp] theorem State.markStarted_i (s : State) : (s.markStarted).i = s.i := rfl
@[simp] theorem State.markStarted_pc (s : State) : (s.markStarted).pc = s.pc := rfl
@[simp] theorem State.markStarted_sp (s : State) : (s.markStarted).sp = s.sp := rfl
@[simp] theorem State.markStarted_stack (s : State) : (s.markStarted).stack = s.stack := rfl
@[simp] theorem State.markStarted_dt (s : State) : (s.markStarted).dt = s.dt := rfl
@[simp] theorem State.markStarted_st (s : State) : (s.markStarted).st = s.st := rfl
@[simp] theorem State.markStarted_mem (s : State) : (s.markStarted).mem = s.mem := rfl
@[simp] theorem State.markStarted_fb (s : State) : (s.markStarted).fb = s.fb := rfl
@[simp] theorem State.markStarted_dirty (s : State) : (s.markStarted).dirty = s.dirty := rfl
@[simp] theorem State.markStarted_keys (s : State) : (s.markStarted).keys = s.keys := rfl
@[simp] theorem State.markStarted_fault (s : State) : (s.markStarted).fault = s.fault := rfl
@[simp] theorem State.markStarted_loaded (s : State) : (s.markStarted).loaded = s.loaded := rfl
@[simp] theorem State.markStarted_started (s : State) : (s.markStarted).started = true := rfl
@[simp] theorem State.markStarted_draws (s : State) : (s.markStarted).draws = s.draws := rfl
@[simp] theorem State.markStarted_getV (s : State) (r : Reg) : (s.markStarted).getV r = s.getV r := rfl
@[simp] theorem State.markStarted_keyDown (s : State) (j : Key) : (s.markStarted).keyDown j = s.keyDown j := rfl
@[simp] theorem State.markStarted_pixel (s : State) (col : Fin 64) (row : Fin 32) : (s.markStarted).pixel col row = s.pixel col row := rfl
@[simp] theorem State.markStarted_byteAtI (s : State) (j : Nat) : (s.markStarted).byteAtI j = s.byteAtI j := rfl
@[simp] theorem State.markStarted_leastKeyDown (s : State) : (s.markStarted).leastKeyDown  = s.leastKeyDown := rfl

/-! ### setV -/

@[simp] theorem State.setV_v (s : State) (x : Reg) (b : Byte) : (s.setV x b).v = s.v.set x.val b x.isLt := rfl
@[simp] theorem State.setV_i (s : State) (x : Reg) (b : Byte) : (s.setV x b).i = s.i := rfl
@[simp] theorem State.setV_pc (s : State) (x : Reg) (b : Byte) : (s.setV x b).pc = s.pc := rfl
@[simp] theorem State.setV_sp (s : State) (x : Reg) (b : Byte) : (s.setV x b).sp = s.sp := rfl
@[simp] theorem State.setV_stack (s : State) (x : Reg) (b : Byte) : (s.setV x b).stack = s.stack := rfl
@[simp] theorem State.setV_dt (s : State) (x : Reg) (b : Byte) : (s.setV x b).dt = s.dt := rfl
@[simp] theorem State.setV_st (s : State) (x : Reg) (b : Byte) : (s.setV x b).st = s.st := rfl
@[simp] theorem State.setV_mem (s : State) (x : Reg) (b : Byte) : (s.setV x b).mem = s.mem := rfl
@[simp] theorem State.setV_fb (s : State) (x : Reg) (b : Byte) : (s.setV x b).fb = s.fb := rfl
@[simp] theorem State.setV_dirty (s : State) (x : Reg) (b : Byte) : (s.setV x b).dirty = s.dirty := rfl
@[simp] theorem State.setV_keys (s : State) (x : Reg) (b : Byte) : (s.setV x b).keys = s.keys := rfl
@[simp] theorem State.setV_fault (s : State) (x : Reg) (b : Byte) : (s.setV x b).fault = s.fault := rfl
@[simp] theorem State.setV_loaded (s : State) (x : Reg) (b : Byte) : (s.setV x b).loaded = s.loaded := rfl
@[simp] theorem State.setV_started (s : State) (x : Reg) (b : Byte) : (s.setV x b).started = s.started := rfl
@[simp] theorem State.setV_draws (s : State) (x : Reg) (b : Byte) : (s.setV x b).draws = s.draws := rfl
@[simp] theorem State.setV_keyDown (s : State) (x : Reg) (b : Byte) (j : Key) : (s.setV x b).keyDown j = s.keyDown j := rfl
@[simp] theorem State.setV_pixel (s : State) (x : Reg) (b : Byte) (col : Fin 64) (row : Fin 32) : (s.setV x b).pixel col row = s.pixel col row := rfl
@[simp] theorem State.setV_byteAtI (s : State) (x : Reg) (b : Byte) (j : Nat) : (s.setV x b).byteAtI j = s.byteAtI j := rfl
@[simp] theorem State.setV_leastKeyDown (s : State) (x : Reg) (b : Byte) : (s.setV x b).leastKeyDown  = s.leastKeyDown := rfl

/-! ### setVFlag -/

@[simp] theorem State.setVFlag_v (s : State) (x : Reg) (b f : Byte) : (s.setVFlag x b f).v = (s.v.set x.val b x.isLt).set 15 f := rfl
@[simp] theorem State.setVFlag_i (s : State) (x : Reg) (b f : Byte) : (s.setVFlag x b f).i = s.i := rfl
@[simp] theorem State.setVFlag_pc (s : State) (x : Reg) (b f : Byte) : (s.setVFlag x b f).pc = s.pc := rfl
@[simp] theorem State.setVFlag_sp (s : State) (x : Reg) (b f : Byte) : (s.setVFlag x b f).sp = s.sp := rfl
@[simp] theorem State.setVFlag_stack (s : State) (x : Reg) (b f : Byte) : (s.setVFlag x b f).stack = s.stack := rfl
@[simp] theorem State.setVFlag_dt (s : State) (x : Reg) (b f : Byte) : (s.setVFlag x b f).dt = s.dt := rfl
@[simp] theorem State.setVFlag_st (s : State) (x : Reg) (b f : Byte) : (s.setVFlag x b f).st = s.st := rfl
@[simp] theorem State.setVFlag_mem (s : State) (x : Reg) (b f : Byte) : (s.setVFlag x b f).mem = s.mem := rfl
@[simp] theorem State.setVFlag_fb (s : State) (x : Reg) (b f : Byte) : (s.setVFlag x b f).fb = s.fb := rfl
@[simp] theorem State.setVFlag_dirty (s : State) (x : Reg) (b f : Byte) : (s.setVFlag x b f).dirty = s.dirty := rfl
@[simp] theorem State.setVFlag_keys (s : State) (x : Reg) (b f : Byte) : (s.setVFlag x b f).keys = s.keys := rfl
@[simp] theorem State.setVFlag_fault (s : State) (x : Reg) (b f : Byte) : (s.setVFlag x b f).fault = s.fault := rfl
@[simp] theorem State.setVFlag_loaded (s : State) (x : Reg) (b f : Byte) : (s.setVFlag x b f).loaded = s.loaded := rfl
@[simp] theorem State.setVFlag_started (s : State) (x : Reg) (b f : Byte) : (s.setVFlag x b f).started = s.started := rfl
@[simp] theorem State.setVFlag_draws (s : State) (x : Reg) (b f : Byte) : (s.setVFlag x b f).draws = s.draws := rfl
@[simp] theorem State.setVFlag_keyDown (s : State) (x : Reg) (b f : Byte) (j : Key) : (s.setVFlag x b f).keyDown j = s.keyDown j := rfl
@[simp] theorem State.setVFlag_pixel (s : State) (x : Reg) (b f : Byte) (col : Fin 64) (row : Fin 32) : (s.setVFlag x b f).pixel col row = s.pixel col row := rfl
@[simp] theorem State.setVFlag_byteAtI (s : State) (x : Reg) (b f : Byte) (j : Nat) : (s.setVFlag x b f).byteAtI j = s.byteAtI j := rfl
@[simp] theorem State.setVFlag_leastKeyDown (s : State) (x : Reg) (b f : Byte) : (s.setVFlag x b f).leastKeyDown  = s.leastKeyDown := rfl

/-! ### setI -/

@[simp] theorem State.setI_v (s : State) (a : Half) : (s.setI a).v = s.v := rfl
@[simp] theorem State.setI_i (s : State) (a : Half) : (s.setI a).i = a := rfl
@[simp] theorem State.setI_pc (s : State) (a : Half) : (s.setI a).pc = s.pc := rfl
@[simp] theorem State.setI_sp (s : State) (a : Half) : (s.setI a).sp = s.sp := rfl
@[simp] theorem State.setI_stack (s : State) (a : Half) : (s.setI a).stack = s.stack := rfl
@[simp] theorem State.setI_dt (s : State) (a : Half) : (s.setI a).dt = s.dt := rfl
@[simp] theorem State.setI_st (s : State) (a : Half) : (s.setI a).st = s.st := rfl
@[simp] theorem State.setI_mem (s : State) (a : Half) : (s.setI a).mem = s.mem := rfl
@[simp] theorem State.setI_fb (s : State) (a : Half) : (s.setI a).fb = s.fb := rfl
@[simp] theorem State.setI_dirty (s : State) (a : Half) : (s.setI a).dirty = s.dirty := rfl
@[simp] theorem State.setI_keys (s : State) (a : Half) : (s.setI a).keys = s.keys := rfl
@[simp] theorem State.setI_fault (s : State) (a : Half) : (s.setI a).fault = s.fault := rfl
@[simp] theorem State.setI_loaded (s : State) (a : Half) : (s.setI a).loaded = s.loaded := rfl
@[simp] theorem State.setI_started (s : State) (a : Half) : (s.setI a).started = s.started := rfl
@[simp] theorem State.setI_draws (s : State) (a : Half) : (s.setI a).draws = s.draws := rfl
@[simp] theorem State.setI_getV (s : State) (a : Half) (r : Reg) : (s.setI a).getV r = s.getV r := rfl
@[simp] theorem State.setI_keyDown (s : State) (a : Half) (j : Key) : (s.setI a).keyDown j = s.keyDown j := rfl
@[simp] theorem State.setI_pixel (s : State) (a : Half) (col : Fin 64) (row : Fin 32) : (s.setI a).pixel col row = s.pixel col row := rfl
@[simp] theorem State.setI_leastKeyDown (s : State) (a : Half) : (s.setI a).leastKeyDown  = s.leastKeyDown := rfl

/-! ### jumpTo -/

@[simp] theorem State.jumpTo_v (s : State) (a : Half) : (s.jumpTo a).v = s.v := rfl
@[simp] theorem State.jumpTo_i (s : State) (a : Half) : (s.jumpTo a).i = s.i := rfl
@[simp] theorem State.jumpTo_pc (s : State) (a : Half) : (s.jumpTo a).pc = a := rfl
@[simp] theorem State.jumpTo_sp (s : State) (a : Half) : (s.jumpTo a).sp = s.sp := rfl
@[simp] theorem State.jumpTo_stack (s : State) (a : Half) : (s.jumpTo a).stack = s.stack := rfl
@[simp] theorem State.jumpTo_dt (s : State) (a : Half) : (s.jumpTo a).dt = s.dt := rfl
@[simp] theorem State.jumpTo_st (s : State) (a : Half) : (s.jumpTo a).st = s.st := rfl
@[simp] theorem State.jumpTo_mem (s : State) (a : Half) : (s.jumpTo a).mem = s.mem := rfl
@[simp] theorem State.jumpTo_fb (s : State) (a : Half) : (s.jumpTo a).fb = s.fb := rfl
@[simp] theorem State.jumpTo_dirty (s : State) (a : Half) : (s.jumpTo a).dirty = s.dirty := rfl
@[simp] theorem State.jumpTo_keys (s : State) (a : Half) : (s.jumpTo a).keys = s.keys := rfl
@[simp] theorem State.jumpTo_fault (s : State) (a : Half) : (s.jumpTo a).fault = s.fault := rfl
@[simp] theorem State.jumpTo_loaded (s : State) (a : Half) : (s.jumpTo a).loaded = s.loaded := rfl
@[simp] theorem State.jumpTo_started (s : State) (a : Half) : (s.jumpTo a).started = s.started := rfl
@[simp] theorem State.jumpTo_draws (s : State) (a : Half) : (s.jumpTo a).draws = s.draws := rfl
@[simp] theorem State.jumpTo_getV (s : State) (a : Half) (r : Reg) : (s.jumpTo a).getV r = s.getV r := rfl
@[simp] theorem State.jumpTo_keyDown (s : State) (a : Half) (j : Key) : (s.jumpTo a).keyDown j = s.keyDown j := rfl
@[simp] theorem State.jumpTo_pixel (s : State) (a : Half) (col : Fin 64) (row : Fin 32) : (s.jumpTo a).pixel col row = s.pixel col row := rfl
@[simp] theorem State.jumpTo_byteAtI (s : State) (a : Half) (j : Nat) : (s.jumpTo a).byteAtI j = s.byteAtI j := rfl
@[simp] theorem State.jumpTo_leastKeyDown (s : State) (a : Half) : (s.jumpTo a).leastKeyDown  = s.leastKeyDown := rfl

/-! ### skipIf -/

@[simp] theorem State.skipIf_v (s : State) (c : Bool) : (s.skipIf c).v = s.v := by cases c <;> rfl
@[simp] theorem State.skipIf_i (s : State) (c : Bool) : (s.skipIf c).i = s.i := by cases c <;> rfl
@[simp] theorem State.skipIf_pc (s : State) (c : Bool) : (s.skipIf c).pc = if c then s.pc + 2 else s.pc := by cases c <;> rfl
@[simp] theorem State.skipIf_sp (s : State) (c : Bool) : (s.skipIf c).sp = s.sp := by cases c <;> rfl
@[simp] theorem State.skipIf_stack (s : State) (c : Bool) : (s.skipIf c).stack = s.stack := by cases c <;> rfl
@[simp] theorem State.skipIf_dt (s : State) (c : Bool) : (s.skipIf c).dt = s.dt := by cases c <;> rfl
@[simp] theorem State.skipIf_st (s : State) (c : Bool) : (s.skipIf c).st = s.st := by cases c <;> rfl
@[simp] theorem State.skipIf_mem (s : State) (c : Bool) : (s.skipIf c).mem = s.mem := by cases c <;> rfl
@[simp] theorem State.skipIf_fb (s : State) (c : Bool) : (s.skipIf c).fb = s.fb := by cases c <;> rfl
@[simp] theorem State.skipIf_dirty (s : State) (c : Bool) : (s.skipIf c).dirty = s.dirty := by cases c <;> rfl
@[simp] theorem State.skipIf_keys (s : State) (c : Bool) : (s.skipIf c).keys = s.keys := by cases c <;> rfl
@[simp] theorem State.skipIf_fault (s : State) (c : Bool) : (s.skipIf c).fault = s.fault := by cases c <;> rfl
@[simp] theorem State.skipIf_loaded (s : State) (c : Bool) : (s.skipIf c).loaded = s.loaded := by cases c <;> rfl
@[simp] theorem State.skipIf_started (s : State) (c : Bool) : (s.skipIf c).started = s.started := by cases c <;> rfl
@[simp] theorem State.skipIf_draws (s : State) (c : Bool) : (s.skipIf c).draws = s.draws := by cases c <;> rfl
@[simp] theorem State.skipIf_getV (s : State) (c : Bool) (r : Reg) : (s.skipIf c).getV r = s.getV r := by cases c <;> rfl
@[simp] theorem State.skipIf_keyDown (s : State) (c : Bool) (j : Key) : (s.skipIf c).keyDown j = s.keyDown j := by cases c <;> rfl
@[simp] theorem State.skipIf_pixel (s : State) (c : Bool) (col : Fin 64) (row : Fin 32) : (s.skipIf c).pixel col row = s.pixel col row := by cases c <;> rfl
@[simp] theorem State.skipIf_byteAtI (s : State) (c : Bool) (j : Nat) : (s.skipIf c).byteAtI j = s.byteAtI j := by cases c <;> rfl
@[simp] theorem State.skipIf_leastKeyDown (s : State) (c : Bool) : (s.skipIf c).leastKeyDown  = s.leastKeyDown := by cases c <;> rfl

/-! ### rollback -/

@[simp] theorem State.rollback_v (s : State) : (s.rollback).v = s.v := rfl
@[simp] theorem State.rollback_i (s : State) : (s.rollback).i = s.i := rfl
@[simp] theorem State.rollback_pc (s : State) : (s.rollback).pc = s.pc - 2 := rfl
@[simp] theorem State.rollback_sp (s : State) : (s.rollback).sp = s.sp := rfl
@[simp] theorem State.rollback_stack (s : State) : (s.rollback).stack = s.stack := rfl
@[simp] theorem State.rollback_dt (s : State) : (s.rollback).dt = s.dt := rfl
@[simp] theorem State.rollback_st (s : State) : (s.rollback).st = s.st := rfl
@[simp] theorem State.rollback_mem (s : State) : (s.rollback).mem = s.mem := rfl
@[simp] theorem State.rollback_fb (s : State) : (s.rollback).fb = s.fb := rfl
@[simp] theorem State.rollback_dirty (s : State) : (s.rollback).dirty = s.dirty := rfl
@[simp] theorem State.rollback_keys (s : State) : (s.rollback).keys = s.keys := rfl
@[simp] theorem State.rollback_fault (s : State) : (s.rollback).fault = s.fault := rfl
@[simp] theorem State.rollback_loaded (s : State) : (s.rollback).loaded = s.loaded := rfl
@[simp] theorem State.rollback_started (s : State) : (s.rollback).started = s.started := rfl
@[simp] theorem State.rollback_draws (s : State) : (s.rollback).draws = s.draws := rfl
@[simp] theorem State.rollback_getV (s : State) (r : Reg) : (s.rollback).getV r = s.getV r := rfl
@[simp] theorem State.rollback_keyDown (s : State) (j : Key) : (s.rollback).keyDown j = s.keyDown j := rfl
@[simp] theorem State.rollback_pixel (s : State) (col : Fin 64) (row : Fin 32) : (s.rollback).pixel col row = s.pixel col row := rfl
@[simp] theorem State.rollback_byteAtI (s : State) (j : Nat) : (s.rollback).byteAtI j = s.byteAtI j := rfl
@[simp] theorem State.rollback_leastKeyDown (s : State) : (s.rollback).leastKeyDown  = s.leastKeyDown := rfl

/-! ### consumeDraw -/

@[simp] theorem State.consumeDraw_v (s : State) : (s.consumeDraw).v = s.v := rfl
@[simp] theorem State.consumeDraw_i (s : State) : (s.consumeDraw).i = s.i := rfl
@[simp] theorem State.consumeDraw_pc (s : State) : (s.consumeDraw).pc = s.pc := rfl
@[simp] theorem State.consumeDraw_sp (s : State) : (s.consumeDraw).sp = s.sp := rfl
@[simp] theorem State.consumeDraw_stack (s : State) : (s.consumeDraw).stack = s.stack := rfl
@[simp] theorem State.consumeDraw_dt (s : State) : (s.consumeDraw).dt = s.dt := rfl
@[simp] theorem State.consumeDraw_st (s : State) : (s.consumeDraw).st = s.st := rfl
@[simp] theorem State.consumeDraw_mem (s : State) : (s.consumeDraw).mem = s.mem := rfl
@[simp] theorem State.consumeDraw_fb (s : State) : (s.consumeDraw).fb = s.fb := rfl
@[simp] theorem State.consumeDraw_dirty (s : State) : (s.consumeDraw).dirty = s.dirty := rfl
@[simp] theorem State.consumeDraw_keys (s : State) : (s.consumeDraw).keys = s.keys := rfl
@[simp] theorem State.consumeDraw_fault (s : State) : (s.consumeDraw).fault = s.fault := rfl
@[simp] theorem State.consumeDraw_loaded (s : State) : (s.consumeDraw).loaded = s.loaded := rfl
@[simp] theorem State.consumeDraw_started (s : State) : (s.consumeDraw).started = s.started := rfl
@[simp] theorem State.consumeDraw_draws (s : State) : (s.consumeDraw).draws = s.draws + 1 := rfl
@[simp] theorem State.consumeDraw_getV (s : State) (r : Reg) : (s.consumeDraw).getV r = s.getV r := rfl
@[simp] theorem State.consumeDraw_keyDown (s : State) (j : Key) : (s.consumeDraw).keyDown j = s.keyDown j := rfl
@[simp] theorem State.consumeDraw_pixel (s : State) (col : Fin 64) (row : Fin 32) : (s.consumeDraw).pixel col row = s.pixel col row := rfl
@[simp] theorem State.consumeDraw_byteAtI (s : State) (j : Nat) : (s.consumeDraw).byteAtI j = s.byteAtI j := rfl
@[simp] theorem State.consumeDraw_leastKeyDown (s : State) : (s.consumeDraw).leastKeyDown  = s.leastKeyDown := rfl

/-! ### storeAtI -/

@[simp] theorem State.storeAtI_v (s : State) (l : List Byte) : (s.storeAtI l).v = s.v := rfl
@[simp] theorem State.storeAtI_i (s : State) (l : List Byte) : (s.storeAtI l).i = s.i := rfl
@[simp] theorem State.storeAtI_pc (s : State) (l : List Byte) : (s.storeAtI l).pc = s.pc := rfl
@[simp] theorem State.storeAtI_sp (s : State) (l : List Byte) : (s.storeAtI l).sp = s.sp := rfl
@[simp] theorem State.storeAtI_stack (s : State) (l : List Byte) : (s.storeAtI l).stack = s.stack := rfl
@[simp] theorem State.storeAtI_dt (s : State) (l : List Byte) : (s.storeAtI l).dt = s.dt := rfl
@[simp] theorem State.storeAtI_st (s : State) (l : List Byte) : (s.storeAtI l).st = s.st := rfl
@[simp] theorem State.storeAtI_mem (s : State) (l : List Byte) : (s.storeAtI l).mem = s.mem.writeBytes s.i.toNat l := rfl
@[simp] theorem State.storeAtI_fb (s : State) (l : List Byte) : (s.storeAtI l).fb = s.fb := rfl
@[simp] theorem State.storeAtI_dirty (s : State) (l : List Byte) : (s.storeAtI l).dirty = s.dirty := rfl
@[simp] theorem State.storeAtI_keys (s : State) (l : List Byte) : (s.storeAtI l).keys = s.keys := rfl
@[simp] theorem State.storeAtI_fault (s : State) (l : List Byte) : (s.storeAtI l).fault = s.fault := rfl
@[simp] theorem State.storeAtI_loaded (s : State) (l : List Byte) : (s.storeAtI l).loaded = s.loaded := rfl
@[simp] theorem State.storeAtI_started (s : State) (l : List Byte) : (s.storeAtI l).started = s.started := rfl
@[simp] theorem State.storeAtI_draws (s : State) (l : List Byte) : (s.storeAtI l).draws = s.draws := rfl
@[simp] theorem State.storeAtI_getV (s : State) (l : List Byte) (r : Reg) : (s.storeAtI l).getV r = s.getV r := rfl
@[simp] theorem State.storeAtI_keyDown (s : State) (l : List Byte) (j : Key) : (s.storeAtI l).keyDown j = s.keyDown j := rfl
@[simp] theorem State.storeAtI_pixel (s : State) (l : List Byte) (col : Fin 64) (row : Fin 32) : (s.storeAtI l).pixel col row = s.pixel col row := rfl
@[simp] theorem State.storeAtI_leastKeyDown (s : State) (l : List Byte) : (s.storeAtI l).leastKeyDown  = s.leastKeyDown := rfl

/-! ### loadFromI -/

@[simp] theorem State.loadFromI_v (s : State) (x : Reg) : (s.loadFromI x).v = s.loadedRegs x := rfl
@[simp] theorem State.loadFromI_i (s : State) (x : Reg) : (s.loadFromI x).i = s.i := rfl
@[simp] theorem State.loadFromI_pc (s : State) (x : Reg) : (s.loadFromI x).pc = s.pc := rfl
@[simp] theorem State.loadFromI_sp (s : State) (x : Reg) : (s.loadFromI x).sp = s.sp := rfl
@[simp] theorem State.loadFromI_stack (s : State) (x : Reg) : (s.loadFromI x).stack = s.stack := rfl
@[simp] theorem State.loadFromI_dt (s : State) (x : Reg) : (s.loadFromI x).dt = s.dt := rfl
@[simp] theorem State.loadFromI_st (s : State) (x : Reg) : (s.loadFromI x).st = s.st := rfl
@[simp] theorem State.loadFromI_mem (s : State) (x : Reg) : (s.loadFromI x).mem = s.mem := rfl
@[simp] theorem State.loadFromI_fb (s : State) (x : Reg) : (s.loadFromI x).fb = s.fb := rfl
@[simp] theorem State.loadFromI_dirty (s : State) (x : Reg) : (s.loadFromI x).dirty = s.dirty := rfl
@[simp] theorem State.loadFromI_keys (s : State) (x : Reg) : (s.loadFromI x).keys = s.keys := rfl
@[simp] theorem State.loadFromI_fault (s : State) (x : Reg) : (s.loadFromI x).fault = s.fault := rfl
@[simp] theorem State.loadFromI_loaded (s : State) (x : Reg) : (s.loadFromI x).loaded = s.loaded := rfl
@[simp] theorem State.loadFromI_started (s : State) (x : Reg) : (s.loadFromI x).started = s.started := rfl
@[simp] theorem State.loadFromI_draws (s : State) (x : Reg) : (s.loadFromI x).draws = s.draws := rfl
@[simp] theorem State.loadFromI_keyDown (s : State) (x : Reg) (j : Key) : (s.loadFromI x).keyDown j = s.keyDown j := rfl
@[simp] theorem State.loadFromI_pixel (s : State) (x : Reg) (col : Fin 64) (row : Fin 32) : (s.loadFromI x).pixel col row = s.pixel col row := rfl
@[simp] theorem State.loadFromI_byteAtI (s : State) (x : Reg) (j : Nat) : (s.loadFromI x).byteAtI j = s.byteAtI j := rfl
@[simp] theorem State.loadFromI_leastKeyDown (s : State) (x : Reg) : (s.loadFromI x).leastKeyDown  = s.leastKeyDown := rfl

/-! ### setDt -/

@[simp] theorem State.setDt_v (s : State) (b : Byte) : (s.setDt b).v = s.v := rfl
@[simp] theorem State.setDt_i (s : State) (b : Byte) : (s.setDt b).i = s.i := rfl
@[simp] theorem State.setDt_pc (s : State) (b : Byte) : (s.setDt b).pc = s.pc := rfl
@[simp] theorem State.setDt_sp (s : State) (b : Byte) : (s.setDt b).sp = s.sp := rfl
@[simp] theorem State.setDt_stack (s : State) (b : Byte) : (s.setDt b).stack = s.stack := rfl
@[simp] theorem State.setDt_dt (s : State) (b : Byte) : (s.setDt b).dt = b := rfl
@[simp] theorem State.setDt_st (s : State) (b : Byte) : (s.setDt b).st = s.st := rfl
@[simp] theorem State.setDt_mem (s : State) (b : Byte) : (s.setDt b).mem = s.mem := rfl
@[simp] theorem State.setDt_fb (s : State) (b : Byte) : (s.setDt b).fb = s.fb := rfl
@[simp] theorem State.setDt_dirty (s : State) (b : Byte) : (s.setDt b).dirty = s.dirty := rfl
@[simp] theorem State.setDt_keys (s : State) (b : Byte) : (s.setDt b).keys = s.keys := rfl
@[simp] theorem State.setDt_fault (s : State) (b : Byte) : (s.setDt b).fault = s.fault := rfl
@[simp] theorem State.setDt_loaded (s : State) (b : Byte) : (s.setDt b).loaded = s.loaded := rfl
@[simp] theorem State.setDt_started (s : State) (b : Byte) : (s.setDt b).started = s.started := rfl
@[simp] theorem State.setDt_draws (s : State) (b : Byte) : (s.setDt b).draws = s.draws := rfl
@[simp] theorem State.setDt_getV (s : State) (b : Byte) (r : Reg) : (s.setDt b).getV r = s.getV r := rfl
@[simp] theorem State.setDt_keyDown (s : State) (b : Byte) (j : Key) : (s.setDt b).keyDown j = s.keyDown j := rfl
@[simp] theorem State.setDt_pixel (s : State) (b : Byte) (col : Fin 64) (row : Fin 32) : (s.setDt b).pixel col row = s.pixel col row := rfl
@[simp] theorem State.setDt_byteAtI (s : State) (b : Byte) (j : Nat) : (s.setDt b).byteAtI j = s.byteAtI j := rfl
@[simp] theorem State.setDt_leastKeyDown (s : State) (b : Byte) : (s.setDt b).leastKeyDown  = s.leastKeyDown := rfl

/-! ### setSt -/

@[simp] theorem State.setSt_v (s : State) (b : Byte) : (s.setSt b).v = s.v := rfl
@[simp] theorem State.setSt_i (s : State) (b : Byte) : (s.setSt b).i = s.i := rfl
@[simp] theorem State.setSt_pc (s : State) (b : Byte) : (s.setSt b).pc = s.pc := rfl
@[simp] theorem State.setSt_sp (s : State) (b : Byte) : (s.setSt b).sp = s.sp := rfl
@[simp] theorem State.setSt_stack (s : State) (b : Byte) : (s.setSt b).stack = s.stack := rfl
@[simp] theorem State.setSt_dt (s : State) (b : Byte) : (s.setSt b).dt = s.dt := rfl
@[simp] theorem State.setSt_st (s : State) (b : Byte) : (s.setSt b).st = b := rfl
@[simp] theorem State.setSt_mem (s : State) (b : Byte) : (s.setSt b).mem = s.mem := rfl
@[simp] theorem State.setSt_fb (s : State) (b : Byte) : (s.setSt b).fb = s.fb := rfl
@[simp] theorem State.setSt_dirty (s : State) (b : Byte) : (s.setSt b).dirty = s.dirty := rfl
@[simp] theorem State.setSt_keys (s : State) (b : Byte) : (s.setSt b).keys = s.keys := rfl
@[simp] theorem State.setSt_fault (s : State) (b : Byte) : (s.setSt b).fault = s.fault := rfl
@[simp] theorem State.setSt_loaded (s : State) (b : Byte) : (s.setSt b).loaded = s.loaded := rfl
@[simp] theorem State.setSt_started (s : State) (b : Byte) : (s.setSt b).started = s.started := rfl
@[simp] theorem State.setSt_draws (s : State) (b : Byte) : (s.setSt b).draws = s.draws := rfl
@[simp] theorem State.setSt_getV (s : State) (b : Byte) (r : Reg) : (s.setSt b).getV r = s.getV r := rfl
@[simp] theorem State.setSt_keyDown (s : State) (b : Byte) (j : Key) : (s.setSt b).keyDown j = s.keyDown j := rfl
@[simp] theorem State.setSt_pixel (s : State) (b : Byte) (col : Fin 64) (row : Fin 32) : (s.setSt b).pixel col row = s.pixel col row := rfl
@[simp] theorem State.setSt_byteAtI (s : State) (b : Byte) (j : Nat) : (s.setSt b).byteAtI j = s.byteAtI j := rfl
@[simp] theorem State.setSt_leastKeyDown (s : State) (b : Byte) : (s.setSt b).leastKeyDown  = s.leastKeyDown := rfl

/-! ### clearScreen -/

@[simp] theorem State.clearScreen_v (s : State) (c : Bool) : (State.clearScreen c s).v = s.v := rfl
@[simp] theorem State.clearScreen_i (s : State) (c : Bool) : (State.clearScreen c s).i = s.i := rfl
@[simp] theorem State.clearScreen_pc (s : State) (c : Bool) : (State.clearScreen c s).pc = s.pc := rfl
@[simp] theorem State.clearScreen_sp (s : State) (c : Bool) : (State.clearScreen c s).sp = s.sp := rfl
@[simp] theorem State.clearScreen_stack (s : State) (c : Bool) : (State.clearScreen c s).stack = s.stack := rfl
@[simp] theorem State.clearScreen_dt (s : State) (c : Bool) : (State.clearScreen c s).dt = s.dt := rfl
@[simp] theorem State.clearScreen_st (s : State) (c : Bool) : (State.clearScreen c s).st = s.st := rfl
@[simp] theorem State.clearScreen_mem (s : State) (c : Bool) : (State.clearScreen c s).mem = s.mem := rfl
@[simp] theorem State.clearScreen_fb (s : State) (c : Bool) : (State.clearScreen c s).fb = Vector.replicate 2048 false := rfl
@[simp] theorem State.clearScreen_dirty (s : State) (c : Bool) : (State.clearScreen c s).dirty = (s.dirty || c) := rfl
@[simp] theorem State.clearScreen_keys (s : State) (c : Bool) : (State.clearScreen c s).keys = s.keys := rfl
@[simp] theorem State.clearScreen_fault (s : State) (c : Bool) : (State.clearScreen c s).fault = s.fault := rfl
@[simp] theorem State.clearScreen_loaded (s : State) (c : Bool) : (State.clearScreen c s).loaded = s.loaded := rfl
@[simp] theorem State.clearScreen_started (s : State) (c : Bool) : (State.clearScreen c s).started = s.started := rfl
@[simp] theorem State.clearScreen_draws (s : State) (c : Bool) : (State.clearScreen c s).draws = s.draws := rfl
@[simp] theorem State.clearScreen_getV (s : State) (c : Bool) (r : Reg) : (State.clearScreen c s).getV r = s.getV r := rfl
@[simp] theorem State.clearScreen_keyDown (s : State) (c : Bool) (j : Key) : (State.clearScreen c s).keyDown j = s.keyDown j := rfl
@[simp] theorem State.clearScreen_byteAtI (s : State) (c : Bool) (j : Nat) : (State.clearScreen c s).byteAtI j = s.byteAtI j := rfl
@[simp] theorem State.clearScreen_leastKeyDown (s : State) (c : Bool) : (State.clearScreen c s).leastKeyDown  = s.leastKeyDown := rfl

/-! ### drawSprite -/

@[simp] theorem State.drawSprite_i (s : State) (w : Nat) (a b : Byte) (n : Nat) : (State.drawSprite w a b n s).i = s.i := rfl
@[simp] theorem State.drawSprite_pc (s : State) (w : Nat) (a b : Byte) (n : Nat) : (State.drawSprite w a b n s).pc = s.pc := rfl
@[simp] theorem State.drawSprite_sp (s : State) (w : Nat) (a b : Byte) (n : Nat) : (State.drawSprite w a b n s).sp = s.sp := rfl
@[simp] theorem State.drawSprite_stack (s : State) (w : Nat) (a b : Byte) (n : Nat) : (State.drawSprite w a b n s).stack = s.stack := rfl
@[simp] theorem State.drawSprite_dt (s : State) (w : Nat) (a b : Byte) (n : Nat) : (State.drawSprite w a b n s).dt = s.dt := rfl
@[simp] theorem State.drawSprite_st (s : State) (w : Nat) (a b : Byte) (n : Nat) : (State.drawSprite w a b n s).st = s.st := rfl
@[simp] theorem State.drawSprite_mem (s : State) (w : Nat) (a b : Byte) (n : Nat) : (State.drawSprite w a b n s).mem = s.mem := rfl
@[simp] theorem State.drawSprite_keys (s : State) (w : Nat) (a b : Byte) (n : Nat) : (State.drawSprite w a b n s).keys = s.keys := rfl
@[simp] theorem State.drawSprite_fault (s : State) (w : Nat) (a b : Byte) (n : Nat) : (State.drawSprite w a b n s).fault = s.fault := rfl
@[simp] theorem State.drawSprite_loaded (s : State) (w : Nat) (a b : Byte) (n : Nat) : (State.drawSprite w a b n s).loaded = s.loaded := rfl
@[simp] theorem State.drawSprite_started (s : State) (w : Nat) (a b : Byte) (n : Nat) : (State.drawSprite w a b n s).started = s.started := rfl
@[simp] theorem State.drawSprite_draws (s : State) (w : Nat) (a b : Byte) (n : Nat) : (State.drawSprite w a b n s).draws = s.draws := rfl
@[simp] theorem State.drawSprite_keyDown (s : State) (w : Nat) (a b : Byte) (n : Nat) (j : Key) : (State.drawSprite w a b n s).keyDown j = s.keyDown j := rfl
@[simp] theorem State.drawSprite_byteAtI (s : State) (w : Nat) (a b : Byte) (n : Nat) (j : Nat) : (State.drawSprite w a b n s).byteAtI j = s.byteAtI j := rfl
@[simp] theorem State.drawSprite_leastKeyDown (s : State) (w : Nat) (a b : Byte) (n : Nat) : (State.drawSprite w a b n s).leastKeyDown  = s.leastKeyDown := rfl

/-! ### tickTimers -/

@[simp] theorem State.tickTimers_v (s : State) : (s.tickTimers).v = s.v := rfl
@[simp] theorem State.tickTimers_i (s : State) : (s.tickTimers).i = s.i := rfl
@[simp] theorem State.tickTimers_pc (s : State) : (s.tickTimers).pc = s.pc := rfl
@[simp] theorem State.tickTimers_sp (s : State) : (s.tickTimers).sp = s.sp := rfl
@[simp] theorem State.tickTimers_stack (s : State) : (s.tickTimers).stack = s.stack := rfl
@[simp] theorem State.tickTimers_dt (s : State) : (s.tickTimers).dt = tickTimer s.dt := rfl
@[simp] theorem State.tickTimers_st (s : State) : (s.tickTimers).st = tickTimer s.st := rfl
@[simp] theorem State.tickTimers_mem (s : State) : (s.tickTimers).mem = s.mem := rfl
@[simp] theorem State.tickTimers_fb (s : State) : (s.tickTimers).fb = s.fb := rfl
@[simp] theorem State.tickTimers_dirty (s : State) : (s.tickTimers).dirty = s.dirty := rfl
@[simp] theorem State.tickTimers_keys (s : State) : (s.tickTimers).keys = s.keys := rfl
@[simp] theorem State.tickTimers_fault (s : State) : (s.tickTimers).fault = s.fault := rfl
@[simp] theorem State.tickTimers_loaded (s : State) : (s.tickTimers).loaded = s.loaded := rfl
@[simp] theorem State.tickTimers_started (s : State) : (s.tickTimers).started = s.started := rfl
@[simp] theorem State.tickTimers_draws (s : State) : (s.tickTimers).draws = s.draws := rfl
@[simp] theorem State.tickTimers_getV (s : State) (r : Reg) : (s.tickTimers).getV r = s.getV r := rfl
@[simp] theorem State.tickTimers_keyDown (s : State) (j : Key) : (s.tickTimers).keyDown j = s.keyDown j := rfl
@[simp] theorem State.tickTimers_pixel (s : State) (col : Fin 64) (row : Fin 32) : (s.tickTimers).pixel col row = s.pixel col row := rfl
@[simp] theorem State.tickTimers_byteAtI (s : State) (j : Nat) : (s.tickTimers).byteAtI j = s.byteAtI j := rfl
@[simp] theorem State.tickTimers_leastKeyDown (s : State) : (s.tickTimers).leastKeyDown  = s.leastKeyDown := rfl

/-! ### pressKey -/

@[simp] theorem State.pressKey_v (s : State) (k : Key) : (s.pressKey k).v = s.v := rfl
@[simp] theorem State.pressKey_i (s : State) (k : Key) : (s.pressKey k).i = s.i := rfl
@[simp] theorem State.pressKey_pc (s : State) (k : Key) : (s.pressKey k).pc = s.pc := rfl
@[simp] theorem State.pressKey_sp (s : State) (k : Key) : (s.pressKey k).sp = s.sp := rfl
@[simp] theorem State.pressKey_stack (s : State) (k : Key) : (s.pressKey k).stack = s.stack := rfl
@[simp] theorem State.pressKey_dt (s : State) (k : Key) : (s.pressKey k).dt = s.dt := rfl
@[simp] theorem State.pressKey_st (s : State) (k : Key) : (s.pressKey k).st = s.st := rfl
@[simp] theorem State.pressKey_mem (s : State) (k : Key) : (s.pressKey k).mem = s.mem := rfl
@[simp] theorem State.pressKey_fb (s : State) (k : Key) : (s.pressKey k).fb = s.fb := rfl
@[simp] theorem State.pressKey_dirty (s : State) (k : Key) : (s.pressKey k).dirty = s.dirty := rfl
@[simp] theorem State.pressKey_keys (s : State) (k : Key) : (s.pressKey k).keys = s.keys.set k.val true k.isLt := rfl
@[simp] theorem State.pressKey_fault (s : State) (k : Key) : (s.pressKey k).fault = s.fault := rfl
@[simp] theorem State.pressKey_loaded (s : State) (k : Key) : (s.pressKey k).loaded = s.loaded := rfl
@[simp] theorem State.pressKey_started (s : State) (k : Key) : (s.pressKey k).started = s.started := rfl
@[simp] theorem State.pressKey_draws (s : State) (k : Key) : (s.pressKey k).draws = s.draws := rfl
@[simp] theorem State.pressKey_getV (s : State) (k : Key) (r : Reg) : (s.pressKey k).getV r = s.getV r := rfl
@[simp] theorem State.pressKey_pixel (s : State) (k : Key) (col : Fin 64) (row : Fin 32) : (s.pressKey k).pixel col row = s.pixel col row := rfl
@[simp] theorem State.pressKey_byteAtI (s : State) (k : Key) (j : Nat) : (s.pressKey k).byteAtI j = s.byteAtI j := rfl

/-! ### releaseKey -/

@[simp] theorem State.releaseKey_v (s : State) (k : Key) : (s.releaseKey k).v = s.v := rfl
@[simp] theorem State.releaseKey_i (s : State) (k : Key) : (s.releaseKey k).i = s.i := rfl
@[simp] theorem State.releaseKey_pc (s : State) (k : Key) : (s.releaseKey k).pc = s.pc := rfl
@[simp] theorem State.releaseKey_sp (s : State) (k : Key) : (s.releaseKey k).sp = s.sp := rfl
@[simp] theorem State.releaseKey_stack (s : State) (k : Key) : (s.releaseKey k).stack = s.stack := rfl
@[simp] theorem State.releaseKey_dt (s : State) (k : Key) : (s.releaseKey k).dt = s.dt := rfl
@[simp] theorem State.releaseKey_st (s : State) (k : Key) : (s.releaseKey k).st = s.st := rfl
@[simp] theorem State.releaseKey_mem (s : State) (k : Key) : (s.releaseKey k).mem = s.mem := rfl
@[simp] theorem State.releaseKey_fb (s : State) (k : Key) : (s.releaseKey k).fb = s.fb := rfl
@[simp] theorem State.releaseKey_dirty (s : State) (k : Key) : (s.releaseKey k).dirty = s.dirty := rfl
@[simp] theorem State.releaseKey_keys (s : State) (k : Key) : (s.releaseKey k).keys = s.keys.set k.val false k.isLt := rfl
@[simp] theorem State.releaseKey_fault (s : State) (k : Key) : (s.releaseKey k).fault = s.fault := rfl
@[simp] theorem State.releaseKey_loaded (s : State) (k : Key) : (s.releaseKey k).loaded = s.loaded := rfl
@[simp] theorem State.releaseKey_started (s : State) (k : Key) : (s.releaseKey k).started = s.started := rfl
@[simp] theorem State.releaseKey_draws (s : State) (k : Key) : (s.releaseKey k).draws = s.draws := rfl
@[simp] theorem State.releaseKey_getV (s : State) (k : Key) (r : Reg) : (s.releaseKey k).getV r = s.getV r := rfl
@[simp] theorem State.releaseKey_pixel (s : State) (k : Key) (col : Fin 64) (row : Fin 32) : (s.releaseKey k).pixel col row = s.pixel col row := rfl
@[simp] theorem State.releaseKey_byteAtI (s : State) (k : Key) (j : Nat) : (s.releaseKey k).byteAtI j = s.byteAtI j := rfl

/-! ### clearDirty -/

@[simp] theorem State.clearDirty_v (s : State) : (s.clearDirty).v = s.v := rfl
@[simp] theorem State.clearDirty_i (s : State) : (s.clearDirty).i = s.i := rfl
@[simp] theorem State.clearDirty_pc (s : State) : (s.clearDirty).pc = s.pc := rfl
@[simp] theorem State.clearDirty_sp (s : State) : (s.clearDirty).sp = s.sp := rfl
@[simp] theorem State.clearDirty_stack (s : State) : (s.clearDirty).stack = s.stack := rfl
@[simp] theorem State.clearDirty_dt (s : State) : (s.clearDirty).dt = s.dt := rfl
@[simp] theorem State.clearDirty_st (s : State) : (s.clearDirty).st = s.st := rfl
@[simp] theorem State.clearDirty_mem (s : State) : (s.clearDirty).mem = s.mem := rfl
@[simp] theorem State.clearDirty_fb (s : State) : (s.clearDirty).fb = s.fb := rfl
@[simp] theorem State.clearDirty_dirty (s : State) : (s.clearDirty).dirty = false := rfl
@[simp] theorem State.clearDirty_keys (s : State) : (s.clearDirty).keys = s.keys := rfl
@[simp] theorem State.clearDirty_fault (s : State) : (s.clearDirty).fault = s.fault := rfl
@[simp] theorem State.clearDirty_loaded (s : State) : (s.clearDirty).loaded = s.loaded := rfl
@[simp] theorem State.clearDirty_started (s : State) : (s.clearDirty).started = s.started := rfl
@[simp] theorem State.clearDirty_draws (s : State) : (s.clearDirty).draws = s.draws := rfl
@[simp] theorem State.clearDirty_getV (s : State) (r : Reg) : (s.clearDirty).getV r = s.getV r := rfl
@[simp] theorem State.clearDirty_keyDown (s : State) (j : Key) : (s.clearDirty).keyDown j = s.keyDown j := rfl
@[simp] theorem State.clearDirty_pixel (s : State) (col : Fin 64) (row : Fin 32) : (s.clearDirty).pixel col row = s.pixel col row := rfl
@[simp] theorem State.clearDirty_byteAtI (s : State) (j : Nat) : (s.clearDirty).byteAtI j = s.byteAtI j := rfl
@[simp] theorem State.clearDirty_leastKeyDown (s : State) : (s.clearDirty).leastKeyDown  = s.leastKeyDown := rfl

/-! ### Registers, keys and cells after the updates that write them -/

theorem State.getV_setV (s : State) (x r : Reg) (b : Byte) : (s.setV x b).getV r = if r = x then b else s.getV r := by
  simp only [State.getV, State.setV, Vector.get_eq_getElem, Vector.getElem_set, Fin.ext_iff, eq_comm]

@[simp] theorem State.getV_setV_same (s : State) (x : Reg) (b : Byte) : (s.setV x b).getV x = b := by
  simp [State.getV_setV]

theorem State.getV_setV_ne (s : State) {x r : Reg} (b : Byte) (h : r ≠ x) : (s.setV x b).getV r = s.getV r := by
  simp [State.getV_setV, h]

/-- The flag is the last write, so that it stays when x = F (00_scope R14). -/
theorem State.getV_setVFlag (s : State) (x r : Reg) (b f : Byte) :
    (s.setVFlag x b f).getV r = if r = vf then f else if r = x then b else s.getV r := by
  simp only [State.setVFlag, State.getV_setV]

theorem State.getV_loadFromI (s : State) (x r : Reg) :
    (s.loadFromI x).getV r = if r ≤ x then s.byteAtI r.val else s.getV r := by
  simp [State.getV, State.loadFromI, State.loadedRegs, Vector.get_eq_getElem]

theorem State.keyDown_pressKey (s : State) (k j : Key) : (s.pressKey k).keyDown j = if j = k then true else s.keyDown j := by
  simp only [State.keyDown, State.pressKey, Vector.get_eq_getElem, Vector.getElem_set, Fin.ext_iff, eq_comm]

theorem State.keyDown_releaseKey (s : State) (k j : Key) :
    (s.releaseKey k).keyDown j = if j = k then false else s.keyDown j := by
  simp only [State.keyDown, State.releaseKey, Vector.get_eq_getElem, Vector.getElem_set, Fin.ext_iff, eq_comm]

theorem cellIndex_inj {col col' : Fin 64} {row row' : Fin 32} :
    cellIndex col row = cellIndex col' row' ↔ col = col' ∧ row = row' := by
  simp only [cellIndex, Fin.ext_iff]
  omega

@[simp] theorem State.clearScreen_pixel (s : State) (c : Bool) (col : Fin 64) (row : Fin 32) :
    (State.clearScreen c s).pixel col row = false := by
  simp [State.pixel, Framebuffer.cell, State.clearScreen, Vector.get_eq_getElem]

end Sys2Proof.Machine
end

