-- ==== Sys2Proof/Laws/Draw.lean ====
section
/-! SUPPORT. What the loops of Dxyn do (43_display R171), as one equation for each cell, one for the collision and one
for the dirty flag: the loops are unfolded here only. -/

namespace Sys2Proof.Machine

theorem DrawAcc.flip_cell (acc : DrawAcc) (col c : Fin 64) (row r : Fin 32) :
    (acc.flip col row).fb.cell c r = (acc.fb.cell c r ^^ decide (c = col ∧ r = row)) := by
  simp only [DrawAcc.flip, Framebuffer.cell, Vector.get_eq_getElem, Vector.getElem_set]
  by_cases h : c = col ∧ r = row
  · obtain ⟨rfl, rfl⟩ := h
    simp
  · have : ¬ (cellIndex col row).val = (cellIndex c r).val := by
      rw [← Fin.ext_iff, eq_comm, cellIndex_inj]
      exact h
    simp [this, h]

/-- The columns already visited: whether column j < m of the sprite row falls on column c with its bit set. -/
def columnBit (b : Byte) (x0 m c : Nat) : Bool := decide (x0 ≤ c) && decide (c < x0 + m) && b.getLsbD (7 - (c - x0))

theorem drawColumns_spec (b : Byte) (x0 : Nat) (row : Fin 32) (acc : DrawAcc) (m : Nat) :
    let acc' := (List.range m).foldl (drawColumn b x0 row) acc
    (∀ c r, acc'.fb.cell c r = (acc.fb.cell c r ^^ (decide (r = row) && columnBit b x0 m c.val))) ∧
      (acc'.collision = true ↔ acc.collision = true ∨ ∃ c : Fin 64, acc.fb.cell c row = true ∧ columnBit b x0 m c.val = true) ∧
      acc'.touched = acc.touched := by
  induction m with
  | zero =>
    have h : ∀ c, columnBit b x0 0 c = false := by
      intro c
      have : ¬ (x0 ≤ c ∧ c < x0 + 0) := by omega
      unfold columnBit
      by_cases h0 : x0 ≤ c <;> simp [h0] at this ⊢
    simp [h]
  | succ m ih =>
    obtain ⟨hcell, hcol, htouch⟩ := ih
    simp only [List.range_succ, List.foldl_append, List.foldl_cons, List.foldl_nil]
    generalize (List.range m).foldl (drawColumn b x0 row) acc = acc1 at hcell hcol htouch ⊢
    have step : ∀ c : Fin 64, columnBit b x0 (m + 1) c.val =
        (columnBit b x0 m c.val ^^ (decide (c.val = x0 + m) && b.getLsbD (7 - m))) := by
      intro c
      unfold columnBit
      by_cases hc : c.val = x0 + m
      · simp [hc]
      · have : decide (c.val < x0 + (m + 1)) = decide (c.val < x0 + m) := by
          rw [decide_eq_decide]
          omega
        simp [this, hc]
    unfold drawColumn
    by_cases h : x0 + m < 64
    · rw [dif_pos h]
      by_cases hb : b.getLsbD (7 - m) = true
      · rw [if_pos hb]
        refine ⟨fun c r => ?_, ?_, htouch⟩
        · rw [DrawAcc.flip_cell, hcell, step, hb]
          by_cases hr : r = row <;> by_cases hc : c.val = x0 + m <;> simp [hr, hc, Fin.ext_iff]
        · have hflip : (acc1.flip ⟨x0 + m, h⟩ row).collision =
              (acc1.collision || acc1.fb.cell ⟨x0 + m, h⟩ row) := rfl
          have hnot : columnBit b x0 m (x0 + m) = false := by simp [columnBit]
          rw [hflip, Bool.or_eq_true, hcol, hcell]
          simp only [hnot, Bool.and_false, Bool.xor_false]
          constructor
          · rintro ((h0 | ⟨c, hc1, hc2⟩) | h2)
            · exact .inl h0
            · refine .inr ⟨c, hc1, ?_⟩
              rw [step, hc2]
              have : c.val ≠ x0 + m := by
                intro he
                rw [he, hnot] at hc2
                exact absurd hc2 (by decide)
              simp [this]
            · exact .inr ⟨⟨x0 + m, h⟩, h2, by rw [step]; simp [hnot, hb]⟩
          · rintro (h0 | ⟨c, hc1, hc2⟩)
            · exact .inl (.inl h0)
            · by_cases hc : c.val = x0 + m
              · refine .inr ?_
                have : c = ⟨x0 + m, h⟩ := Fin.ext hc
                rwa [this] at hc1
              · refine .inl (.inr ⟨c, hc1, ?_⟩)
                rw [step] at hc2
                simpa [hc] using hc2
      · rw [if_neg hb]
        have hb' : b.getLsbD (7 - m) = false := by simpa using hb
        simp only [step, hb', Bool.and_false, Bool.xor_false]
        exact ⟨hcell, hcol, htouch⟩
    · rw [dif_neg h]
      have hnone : ∀ c : Fin 64, columnBit b x0 (m + 1) c.val = columnBit b x0 m c.val := by
        intro c
        have : c.val ≠ x0 + m := by omega
        simp [step, this]
      simp only [hnone]
      exact ⟨hcell, hcol, htouch⟩

theorem drawRowBits_spec (b : Byte) (x0 : Nat) (row : Fin 32) (acc : DrawAcc) :
    (∀ c r, (drawRowBits b x0 row acc).fb.cell c r =
        (acc.fb.cell c r ^^ (decide (r = row) && columnBit b x0 8 c.val))) ∧
      ((drawRowBits b x0 row acc).collision = true ↔
        acc.collision = true ∨ ∃ c : Fin 64, acc.fb.cell c row = true ∧ columnBit b x0 8 c.val = true) ∧
      (drawRowBits b x0 row acc).touched = acc.touched :=
  drawColumns_spec b x0 row acc 8

/-- A sprite's bit on a cell, by its row: the bit of the row that falls there. -/
theorem spriteBit_eq_columnBit (byteAt : Nat → Byte) (x0 y0 n : Nat) (c : Fin 64) (r : Fin 32) :
    spriteBit byteAt x0 y0 n c r =
      (decide (y0 ≤ r.val) && decide (r.val < y0 + n) && columnBit (byteAt (r.val - y0)) x0 8 c.val) := by
  unfold spriteBit columnBit
  cases decide (x0 ≤ c.val) <;> cases decide (c.val < x0 + 8) <;> simp

theorem spriteBit_succ (byteAt : Nat → Byte) (x0 y0 n : Nat) (c : Fin 64) (r : Fin 32) :
    spriteBit byteAt x0 y0 (n + 1) c r =
      (spriteBit byteAt x0 y0 n c r ^^ (decide (r.val = y0 + n) && columnBit (byteAt n) x0 8 c.val)) := by
  simp only [spriteBit_eq_columnBit]
  by_cases hr : r.val = y0 + n
  · have : r.val - y0 = n := by omega
    simp [hr]
  · have : decide (r.val < y0 + (n + 1)) = decide (r.val < y0 + n) := by
      rw [decide_eq_decide]
      omega
    simp [this, hr]

/-- What Dxyn's loops leave (R171, R172): each cell is inverted exactly where the sprite has a set bit, a collision is
recorded exactly when such a cell was set, and the frame is touched exactly when a row passed the bound check. -/
theorem drawRows_spec (byteAt : Nat → Byte) (x0 y0 n : Nat) (acc : DrawAcc) :
    (∀ c r, (drawRows byteAt x0 y0 n acc).fb.cell c r = (acc.fb.cell c r ^^ spriteBit byteAt x0 y0 n c r)) ∧
      ((drawRows byteAt x0 y0 n acc).collision = true ↔
        acc.collision = true ∨ ∃ c r, acc.fb.cell c r = true ∧ spriteBit byteAt x0 y0 n c r = true) ∧
      ((drawRows byteAt x0 y0 n acc).touched = true ↔ acc.touched = true ∨ (0 < n ∧ y0 < 32)) := by
  induction n with
  | zero =>
    have h : ∀ c r, spriteBit byteAt x0 y0 0 c r = false := by
      intro c r
      simp [spriteBit]
    simp [drawRows, h]
  | succ n ih =>
    obtain ⟨hcell, hcol, htouch⟩ := ih
    have hstep : drawRows byteAt x0 y0 (n + 1) acc = drawSpriteRow byteAt x0 y0 (drawRows byteAt x0 y0 n acc) n := by
      simp [drawRows, List.range_succ]
    rw [hstep]
    generalize drawRows byteAt x0 y0 n acc = acc1 at hcell hcol htouch ⊢
    unfold drawSpriteRow
    by_cases h : y0 + n < 32
    · rw [dif_pos h]
      obtain ⟨gcell, gcol, gtouch⟩ := drawRowBits_spec (byteAt n) x0 ⟨y0 + n, h⟩ { acc1 with touched := true }
      have hnot : ∀ c, spriteBit byteAt x0 y0 n c ⟨y0 + n, h⟩ = false := by
        intro c
        simp [spriteBit]
      refine ⟨fun c r => ?_, ?_, ?_⟩
      · rw [gcell, hcell, spriteBit_succ, Bool.xor_assoc]
        simp [Fin.ext_iff]
      · rw [gcol]
        simp only [hcol, hcell, hnot, Bool.xor_false]
        constructor
        · rintro ((h0 | ⟨c, r, hc1, hc2⟩) | ⟨c, hc1, hc2⟩)
          · exact .inl h0
          · refine .inr ⟨c, r, hc1, ?_⟩
            have : r.val ≠ y0 + n := by
              intro he
              have hr : r = ⟨y0 + n, h⟩ := Fin.ext he
              rw [hr, hnot] at hc2
              exact absurd hc2 (by decide)
            simp [spriteBit_succ, hc2, this]
          · exact .inr ⟨c, ⟨y0 + n, h⟩, hc1, by simp [spriteBit_succ, hnot, hc2]⟩
        · rintro (h0 | ⟨c, r, hc1, hc2⟩)
          · exact .inl (.inl h0)
          · by_cases hr : r.val = y0 + n
            · have hr' : r = ⟨y0 + n, h⟩ := Fin.ext hr
              subst hr'
              refine .inr ⟨c, hc1, ?_⟩
              rw [spriteBit_succ, hnot] at hc2
              simpa using hc2
            · refine .inl (.inr ⟨c, r, hc1, ?_⟩)
              rw [spriteBit_succ] at hc2
              simpa [hr] using hc2
      · rw [gtouch]
        exact ⟨fun _ => .inr ⟨by omega, by omega⟩, fun _ => rfl⟩
    · rw [dif_neg h]
      have hnone : ∀ c r, spriteBit byteAt x0 y0 (n + 1) c r = spriteBit byteAt x0 y0 n c r := by
        intro c r
        have : r.val ≠ y0 + n := by omega
        simp [spriteBit_succ, this]
      simp only [hnone]
      refine ⟨hcell, hcol, ?_⟩
      have hb : (0 < n ∧ y0 < 32) ↔ (0 < n + 1 ∧ y0 < 32) := by omega
      rw [htouch, hb]

/-! ### Dxyn on a state -/

/-- The collision of a draw (R171): a cell that was set has a set sprite bit on it. -/
theorem drawSprite_collision (s : State) (w : Nat) (a b : Byte) (n : Nat) :
    (drawRows s.byteAtI (startCol a) (startRow w b) n ⟨s.fb, false, false⟩).collision = true ↔
      ∃ c r, s.pixel c r = true ∧ spriteBit s.byteAtI (startCol a) (startRow w b) n c r = true := by
  rw [(drawRows_spec _ _ _ _ _).2.1]
  simp [State.pixel]

theorem State.drawSprite_pixel (s : State) (w : Nat) (a b : Byte) (n : Nat) (c : Fin 64) (r : Fin 32) :
    (State.drawSprite w a b n s).pixel c r =
      (s.pixel c r ^^ spriteBit s.byteAtI (startCol a) (startRow w b) n c r) :=
  (drawRows_spec s.byteAtI (startCol a) (startRow w b) n ⟨s.fb, false, false⟩).1 c r

theorem State.drawSprite_dirty (s : State) (w : Nat) (a b : Byte) (n : Nat) :
    (State.drawSprite w a b n s).dirty = (s.dirty || (decide (0 < n) && decide (startRow w b < 32))) := by
  have h := (drawRows_spec s.byteAtI (startCol a) (startRow w b) n ⟨s.fb, false, false⟩).2.2
  show (s.dirty || _) = _
  congr 1
  rw [Bool.eq_iff_iff, h]
  simp

theorem State.drawSprite_getV (s : State) (w : Nat) (a b : Byte) (n : Nat) (x : Reg) :
    (State.drawSprite w a b n s).getV x = if x = vf then
      collisionFlag (drawRows s.byteAtI (startCol a) (startRow w b) n ⟨s.fb, false, false⟩).collision
      else s.getV x := by
  simp only [State.drawSprite, State.getV_setV]
  rfl

end Sys2Proof.Machine
end

