-- ==== Sys2Proof/Laws/Memory.lean ====
section
/-! SUPPORT. Laws of memory: reading after writing, and the canonical form. -/

namespace Sys2Proof.Machine

theorem maskAddr_lt (a : Nat) : maskAddr a < 4096 := Nat.mod_lt _ (by decide)

@[simp] theorem maskAddr_maskAddr (a : Nat) : maskAddr (maskAddr a) = maskAddr a := Nat.mod_mod _ _

theorem maskAddr_of_lt {a : Nat} (h : a < 4096) : maskAddr a = a := Nat.mod_eq_of_lt h

/-- Reading depends on the masked address only (20_memory R51). -/
@[simp] theorem Memory.read_maskAddr (m : Memory) (a : Nat) : m.read (maskAddr a) = m.read a := by
  simp [Memory.read]

/-- Memory after `create()`: nothing listed (10_state R39). -/
@[simp] theorem Memory.read_nil (a : Nat) : Memory.read [] a = resetByte (maskAddr a) := rfl

theorem Memory.lookup_cons (c : Host.Cell) (rest : Memory) (a : Nat) :
    Memory.lookup (c :: rest) a = if c.1 = a then c.2 else Memory.lookup rest a := rfl

theorem Memory.lookup_of_not_listed {m : Memory} {a : Nat} (h : ∀ c ∈ m, c.1 ≠ a) : m.lookup a = resetByte a := by
  induction m with
  | nil => rfl
  | cons c rest ih =>
    rw [Memory.lookup_cons, if_neg (h c (by simp))]
    exact ih fun d hd => h d (by simp [hd])

theorem Memory.lookup_erase_same (m : Memory) (a : Nat) : (m.erase a).lookup a = resetByte a := by
  apply Memory.lookup_of_not_listed
  intro c hc
  simpa using (List.mem_filter.1 hc).2

theorem Memory.lookup_erase_ne (m : Memory) {a b : Nat} (h : b ≠ a) : (m.erase a).lookup b = m.lookup b := by
  induction m with
  | nil => rfl
  | cons c rest ih =>
    unfold Memory.erase at ih ⊢
    by_cases hc : c.1 = a
    · rw [List.filter_cons_of_neg (by simp [hc]), ih, Memory.lookup_cons, if_neg (by omega)]
    · rw [List.filter_cons_of_pos (by simp [hc]), Memory.lookup_cons, Memory.lookup_cons, ih]

theorem Memory.lookup_insertCell (m : Memory) (c : Host.Cell) (b : Nat) (h : ∀ d ∈ m, d.1 ≠ c.1) :
    (m.insertCell c).lookup b = if c.1 = b then c.2 else m.lookup b := by
  induction m with
  | nil => rfl
  | cons d rest ih =>
    unfold Memory.insertCell
    split
    · rfl
    · rw [Memory.lookup_cons, ih fun e he => h e (by simp [he]), Memory.lookup_cons]
      have := h d (by simp)
      split <;> split <;> first | rfl | omega

theorem Memory.mem_erase_ne {m : Memory} {a : Nat} {c : Host.Cell} (h : c ∈ m.erase a) : c.1 ≠ a := by
  simpa using (List.mem_filter.1 h).2

/-- A write changes the byte at its masked address and no other (00_scope R11). -/
theorem Memory.read_write (m : Memory) (a b : Nat) (v : Byte) :
    (m.write a v).read b = if maskAddr b = maskAddr a then v else m.read b := by
  unfold Memory.read Memory.write
  split
  next hv =>
    split
    next h => rw [h, Memory.lookup_erase_same, hv]
    next h => exact Memory.lookup_erase_ne m h
  next hv =>
    rw [Memory.lookup_insertCell (m.erase (maskAddr a)) (maskAddr a, v) _ fun d hd => Memory.mem_erase_ne hd]
    split
    next h => rw [if_pos h.symm]
    next h => rw [if_neg (Ne.symm h), Memory.lookup_erase_ne m (Ne.symm h)]

@[simp] theorem Memory.read_write_same (m : Memory) (a : Nat) (v : Byte) : (m.write a v).read a = v := by
  simp [Memory.read_write]

theorem Memory.read_write_ne (m : Memory) {a b : Nat} (v : Byte) (h : maskAddr b ≠ maskAddr a) :
    (m.write a v).read b = m.read b := by
  simp [Memory.read_write, h]

@[simp] theorem Memory.writeBytes_nil (m : Memory) (a : Nat) : m.writeBytes a [] = m := rfl

@[simp] theorem Memory.writeBytes_cons (m : Memory) (a : Nat) (b : Byte) (rest : List Byte) :
    m.writeBytes a (b :: rest) = (m.write a b).writeBytes (a + 1) rest := rfl

/-- A transfer leaves every byte outside its addresses. -/
theorem Memory.read_writeBytes_ne (bytes : List Byte) (m : Memory) (a b : Nat)
    (h : ∀ k, k < bytes.length → maskAddr b ≠ maskAddr (a + k)) : (m.writeBytes a bytes).read b = m.read b := by
  induction bytes generalizing m a with
  | nil => rfl
  | cons v rest ih =>
    rw [Memory.writeBytes_cons, ih, Memory.read_write_ne m v (by simpa using h 0 (by simp))]
    intro k hk
    have := h (k + 1) (by simpa using hk)
    rwa [Nat.add_assoc, Nat.add_comm 1 k]

/-- A transfer of at most 4096 bytes puts byte k at its address plus k, masked. -/
theorem Memory.read_writeBytes (bytes : List Byte) (m : Memory) (a k : Nat) (hlen : bytes.length ≤ 4096)
    (hk : k < bytes.length) : (m.writeBytes a bytes).read (a + k) = bytes[k] := by
  induction bytes generalizing m a k with
  | nil => simp at hk
  | cons v rest ih =>
    have hl : rest.length + 1 ≤ 4096 := by simpa using hlen
    cases k with
    | zero =>
      rw [Memory.writeBytes_cons, Memory.read_writeBytes_ne, Nat.add_zero, Memory.read_write_same]
      · rfl
      · intro k hk'
        unfold maskAddr
        omega
    | succ k =>
      have := ih (m.write a v) (a + 1) k (by omega) (by simpa using hk)
      rw [Nat.add_right_comm] at this
      simpa [Memory.writeBytes_cons, Nat.add_assoc] using this

/-! ### The canonical form -/

theorem Memory.wfFrom_cons {lo : Nat} {c : Host.Cell} {rest : Memory} :
    Memory.wfFrom lo (c :: rest) = true ↔
      lo ≤ c.1 ∧ c.1 < 4096 ∧ c.2 ≠ resetByte c.1 ∧ Memory.wfFrom (c.1 + 1) rest = true := by
  simp [Memory.wfFrom, and_assoc]

theorem Memory.wfFrom_mono {m : Memory} {lo lo' : Nat} (h : lo' ≤ lo) (hm : Memory.wfFrom lo m = true) :
    Memory.wfFrom lo' m = true := by
  cases m with
  | nil => rfl
  | cons c rest =>
    rw [Memory.wfFrom_cons] at hm ⊢
    exact ⟨by omega, hm.2⟩

theorem Memory.wfFrom_erase {m : Memory} {lo : Nat} (a : Nat) (hm : Memory.wfFrom lo m = true) :
    Memory.wfFrom lo (m.erase a) = true := by
  induction m generalizing lo with
  | nil => rfl
  | cons c rest ih =>
    rw [Memory.wfFrom_cons] at hm
    obtain ⟨h1, h2, h3, h4⟩ := hm
    unfold Memory.erase at ih ⊢
    by_cases hc : c.1 = a
    · rw [List.filter_cons_of_neg (by simp [hc])]
      exact Memory.wfFrom_mono (by omega) (ih h4)
    · rw [List.filter_cons_of_pos (by simp [hc]), Memory.wfFrom_cons]
      exact ⟨h1, h2, h3, ih h4⟩

theorem Memory.wfFrom_insertCell {m : Memory} {lo : Nat} {c : Host.Cell} (hlo : lo ≤ c.1) (hc : c.1 < 4096)
    (hv : c.2 ≠ resetByte c.1) (hne : ∀ d ∈ m, d.1 ≠ c.1) (hm : Memory.wfFrom lo m = true) :
    Memory.wfFrom lo (m.insertCell c) = true := by
  induction m generalizing lo with
  | nil => exact Memory.wfFrom_cons.2 ⟨hlo, hc, hv, rfl⟩
  | cons d rest ih =>
    rw [Memory.wfFrom_cons] at hm
    obtain ⟨h1, h2, h3, h4⟩ := hm
    unfold Memory.insertCell
    have hd := hne d (by simp)
    split
    · exact Memory.wfFrom_cons.2 ⟨hlo, hc, hv, Memory.wfFrom_cons.2 ⟨by omega, h2, h3, h4⟩⟩
    · exact Memory.wfFrom_cons.2 ⟨h1, h2, h3, ih (by omega) (fun e he => hne e (by simp [he])) h4⟩

/-- A write keeps the canonical form. -/
theorem Memory.wf_write {m : Memory} (a : Nat) (v : Byte) (hm : m.wf = true) : (m.write a v).wf = true := by
  unfold Memory.write
  split
  next => exact Memory.wfFrom_erase _ hm
  next hv =>
    exact Memory.wfFrom_insertCell (Nat.zero_le _) (maskAddr_lt a) hv (fun d hd => Memory.mem_erase_ne hd)
      (Memory.wfFrom_erase _ hm)

/-- A transfer keeps the canonical form. -/
theorem Memory.wf_writeBytes {m : Memory} (a : Nat) (bytes : List Byte) (hm : m.wf = true) :
    (m.writeBytes a bytes).wf = true := by
  induction bytes generalizing m a with
  | nil => exact hm
  | cons b rest ih => exact ih _ (Memory.wf_write a b hm)

theorem Memory.wfFrom_listed_ge {m : Memory} {lo : Nat} (hm : Memory.wfFrom lo m = true) : ∀ c ∈ m, lo ≤ c.1 := by
  induction m generalizing lo with
  | nil => simp
  | cons d rest ih =>
    rw [Memory.wfFrom_cons] at hm
    intro c hc
    rcases List.mem_cons.1 hc with rfl | hc
    · exact hm.1
    · have := ih hm.2.2.2 c hc
      omega

theorem Memory.lookup_head_ne {m : Memory} {c : Host.Cell} (hv : c.2 ≠ resetByte c.1)
    (hm : Memory.wfFrom (c.1 + 1) m = true) : m.lookup c.1 ≠ c.2 := by
  rw [Memory.lookup_of_not_listed]
  · exact Ne.symm hv
  · intro d hd
    have := Memory.wfFrom_listed_ge hm d hd
    omega

theorem Memory.eq_of_lookup_eq {m m' : Memory} {lo : Nat} (hm : Memory.wfFrom lo m = true)
    (hm' : Memory.wfFrom lo m' = true) (h : ∀ a, m.lookup a = m'.lookup a) : m = m' := by
  induction m generalizing m' lo with
  | nil =>
    cases m' with
    | nil => rfl
    | cons d rest' =>
      rw [Memory.wfFrom_cons] at hm'
      have := h d.1
      rw [Memory.lookup_cons, if_pos rfl] at this
      exact absurd this.symm hm'.2.2.1
  | cons c rest ih =>
    have hc := Memory.wfFrom_cons.1 hm
    cases m' with
    | nil =>
      have := h c.1
      rw [Memory.lookup_cons, if_pos rfl] at this
      exact absurd this hc.2.2.1
    | cons d rest' =>
      have hd := Memory.wfFrom_cons.1 hm'
      have key : c.1 = d.1 := by
        rcases Nat.lt_trichotomy c.1 d.1 with hlt | heq | hgt
        · have := h c.1
          rw [Memory.lookup_cons, if_pos rfl] at this
          have hm'' : Memory.wfFrom (c.1 + 1) (d :: rest') = true := Memory.wfFrom_cons.2 ⟨hlt, hd.2⟩
          exact absurd this.symm (Memory.lookup_head_ne hc.2.2.1 hm'')
        · exact heq
        · have := h d.1
          rw [Memory.lookup_cons d, if_pos rfl] at this
          have hm'' : Memory.wfFrom (d.1 + 1) (c :: rest) = true := Memory.wfFrom_cons.2 ⟨hgt, hc.2⟩
          exact absurd this (Memory.lookup_head_ne hd.2.2.1 hm'')
      have hval : c.2 = d.2 := by
        have := h c.1
        rwa [Memory.lookup_cons, if_pos rfl, Memory.lookup_cons, if_pos key.symm] at this
      have hcd : c = d := Prod.ext key hval
      subst hcd
      rw [ih hc.2.2.2 hd.2.2.2]
      intro a
      by_cases ha : c.1 = a
      · subst ha
        rw [Memory.lookup_of_not_listed, Memory.lookup_of_not_listed]
        · intro e he
          have := Memory.wfFrom_listed_ge hd.2.2.2 e he
          omega
        · intro e he
          have := Memory.wfFrom_listed_ge hc.2.2.2 e he
          omega
      · have := h a
        rwa [Memory.lookup_cons, if_neg ha, Memory.lookup_cons, if_neg ha] at this

theorem Memory.lookup_high {m : Memory} {lo a : Nat} (hm : Memory.wfFrom lo m = true) (ha : 4096 ≤ a) :
    m.lookup a = resetByte a := by
  apply Memory.lookup_of_not_listed
  induction m generalizing lo with
  | nil => simp
  | cons d rest ih =>
    rw [Memory.wfFrom_cons] at hm
    intro c hc
    rcases List.mem_cons.1 hc with rfl | hc
    · omega
    · exact ih hm.2.2.2 c hc

/-- In canonical form, memories that read alike are equal. -/
theorem Memory.ext_of_wf {m m' : Memory} (hm : m.wf = true) (hm' : m'.wf = true)
    (h : ∀ a, m.read a = m'.read a) : m = m' := by
  refine Memory.eq_of_lookup_eq hm hm' fun a => ?_
  rcases Nat.lt_or_ge a 4096 with ha | ha
  · simpa [Memory.read, maskAddr_of_lt ha] using h a
  · rw [Memory.lookup_high hm ha, Memory.lookup_high hm' ha]

end Sys2Proof.Machine
end

