-- ==== Sys2Proof/Laws/Ops.lean ====
section
/-! SUPPORT. One lemma for each shared operation that says what it can do, and the inversion of `exec` and
`step`: later proofs cite these and unfold nothing. -/

namespace Sys2Proof.Machine

/-! ### Flags and operands, as arithmetic -/

@[simp] theorem flagByte_toNat (b : Bool) : (flagByte b).toNat = if b then 1 else 0 := by cases b <;> rfl

theorem carryFlag_toNat (a b : Byte) : (carryFlag a b).toNat = if a.toNat + b.toNat > 255 then 1 else 0 := by
  simp [carryFlag]

theorem noBorrowFlag_toNat (a b : Byte) : (noBorrowFlag a b).toNat = if a.toNat ≥ b.toNat then 1 else 0 := by
  simp [noBorrowFlag]

theorem indexCarryFlag_toNat (i : Half) (a : Byte) :
    (indexCarryFlag i a).toNat = if i.toNat + a.toNat ≥ 4096 then 1 else 0 := by
  simp [indexCarryFlag]

theorem lowBitFlag_toNat (a : Byte) : (lowBitFlag a).toNat = a.toNat % 2 := by
  have := a.isLt
  simp [lowBitFlag]

theorem highBitFlag_toNat (a : Byte) : (highBitFlag a).toNat = a.toNat / 128 := by
  have := a.isLt
  simp [highBitFlag, Nat.shiftRight_eq_div_pow]
  omega

theorem collisionFlag_toNat (c : Bool) : (collisionFlag c).toNat = if c then 1 else 0 := flagByte_toNat c

theorem zext16_toNat (nnn : Addr12) : (zext16 nnn).toNat = nnn.toNat := by
  have := nnn.isLt
  simp [zext16]
  omega

theorem indexSum_toNat (i : Half) (a : Byte) : (indexSum i a).toNat = (i.toNat + a.toNat) % 4096 := by
  simp [indexSum]
  omega

theorem glyphAddress_toNat (b : Byte) : (glyphAddress b).toNat = 0x050 + b.toNat % 16 * 5 := by
  simp [glyphAddress, Config.fontBase]
  omega

theorem bcdDigits_length (v : Byte) : (bcdDigits v).length = 3 := rfl

theorem bcdDigits_toNat (v : Byte) :
    (bcdDigits v).map BitVec.toNat = [v.toNat / 100, v.toNat / 10 % 10, v.toNat % 10] := by
  have := v.isLt
  simp [bcdDigits]
  omega

theorem State.regsUpTo_length (s : State) (x : Reg) : (s.regsUpTo x).length = x.val + 1 := by
  simp [State.regsUpTo]

theorem State.regsUpTo_getElem (s : State) (x k : Reg) (h : k.val < (s.regsUpTo x).length) :
    (s.regsUpTo x)[k.val] = s.getV k := by
  simp [State.regsUpTo, State.getV, Vector.get_eq_getElem]

theorem State.leastKeyDown_some (s : State) (k : Key) :
    s.leastKeyDown = some k ↔ s.keyDown k = true ∧ ∀ j, j < k → s.keyDown j = false := by
  unfold State.leastKeyDown
  rw [List.find?_eq_some_iff_getElem]
  constructor
  · rintro ⟨hk, n, hn, hkn, hall⟩
    refine ⟨hk, fun j hj => ?_⟩
    have hn' : n = k.val := by
      rw [← hkn]
      simp
    have := hall j.val (by rw [hn']; exact hj)
    simpa using this
  · rintro ⟨hk, hall⟩
    refine ⟨hk, k.val, by simp, by simp, fun j hj => ?_⟩
    have := hall ⟨j, by omega⟩ hj
    simpa using this

theorem State.leastKeyDown_none (s : State) : s.leastKeyDown = none ↔ ∀ k, s.keyDown k = false := by
  simp [State.leastKeyDown]

theorem keyValue_toNat (k : Key) : (keyValue k).toNat = k.val := by
  simp [keyValue]
  omega

/-! ### Completing and raising -/

theorem retire_eq (s : State) (body : State → State) : retire s body = .next (body s.advance) := rfl

theorem raise_eq (e : FaultStatus) (s : State) : raise e s = .next { s with fault := e } := rfl

theorem State.pushPc_full (s : State) (h : s.sp.val = 16) : s.pushPc = none := by
  simp [State.pushPc, h]

theorem State.pushPc_room (s : State) (h : s.sp.val < 16) :
    s.pushPc = some { s with stack := s.stack.set s.sp.val s.pc h, sp := ⟨s.sp.val + 1, by omega⟩ } := by
  simp [State.pushPc, h]

theorem State.popPc_empty (s : State) (h : s.sp.val = 0) : s.popPc = none := by
  simp [State.popPc, h]

theorem State.popPc_some (s : State) (h : 0 < s.sp.val) :
    s.popPc = some { s with pc := s.stack.get ⟨s.sp.val - 1, by omega⟩, sp := ⟨s.sp.val - 1, by omega⟩ } := by
  simp [State.popPc, h]

theorem State.waitKey_some (s : State) (x : Reg) {k : Key} (h : s.leastKeyDown = some k) :
    s.waitKey x = s.setV x (keyValue k) := by
  simp [State.waitKey, h]

theorem State.waitKey_none (s : State) (x : Reg) (h : s.leastKeyDown = none) : s.waitKey x = s.rollback := by
  simp [State.waitKey, h]

@[simp] theorem State.rollback_advance (s : State) : s.advance.rollback = s := by
  cases s
  simp only [State.advance, State.rollback, BitVec.add_sub_cancel]

/-! ### 00EE and 2nnn -/

theorem execRet_underflow (s : State) (h : s.sp.val = 0) : execRet s = .next { s with fault := .stackUnderflow } := by
  simp [execRet, State.popPc_empty, h, raise_eq]

theorem execRet_pop (s : State) (h : 0 < s.sp.val) :
    execRet s = .next { s with pc := s.stack.get ⟨s.sp.val - 1, by omega⟩, sp := ⟨s.sp.val - 1, by omega⟩ } := by
  unfold execRet
  rw [State.popPc_some _ (by simpa using h)]
  rfl

theorem execCall_overflow (nnn : Addr12) (s : State) (h : s.sp.val = 16) :
    execCall nnn s = .next { s with fault := .stackOverflow } := by
  simp [execCall, State.pushPc_full, h, raise_eq]

theorem execCall_push (nnn : Addr12) (s : State) (h : s.sp.val < 16) :
    execCall nnn s = .next { s with
      stack := s.stack.set s.sp.val (s.pc + 2) h, sp := ⟨s.sp.val + 1, by omega⟩, pc := zext16 nnn } := by
  unfold execCall
  rw [State.pushPc_room _ (by simpa using h)]
  rfl

/-! ### Every instruction answers a next state -/

/-- No instruction faults and none is refused (60_exceptions R221, 30_encoding R84). -/
theorem exec_answers (i : Instr) (s : State) : ∃ t, exec i s = .next t := by
  cases i with
  | ret =>
    by_cases h : 0 < s.sp.val
    · exact ⟨_, execRet_pop s h⟩
    · exact ⟨_, execRet_underflow s (by omega)⟩
  | call nnn =>
    by_cases h : s.sp.val < 16
    · exact ⟨_, execCall_push nnn s h⟩
    · exact ⟨_, execCall_overflow nnn s (by omega)⟩
  | _ => exact ⟨_, rfl⟩

theorem step_unloaded (s : State) (h : s.loaded = false) : step s = .refused .stepBeforeLoad := by
  simp [step, State.stepAdmitted, h]

theorem step_halted (s : State) (hl : s.loaded = true) (hf : s.fault ≠ .none) : step s = .next s.markStarted := by
  simp [step, State.stepAdmitted, State.halted, hl, hf]

theorem step_runs (s : State) (hl : s.loaded = true) (hf : s.fault = .none) :
    step s = exec (decode s.fetchWord) s.markStarted := by
  simp [step, State.stepAdmitted, State.halted, hl, hf]

/-- What a step can do: refused before a load, nothing but `started` when halted, else the instruction at PC. -/
theorem step_cases {s t : State} (h : step s = .next t) :
    s.loaded = true ∧ ((s.fault ≠ .none ∧ t = s.markStarted) ∨
      (s.fault = .none ∧ exec (decode s.fetchWord) s.markStarted = .next t)) := by
  cases hl : s.loaded with
  | false => simp [step_unloaded s hl] at h
  | true =>
    refine ⟨rfl, ?_⟩
    by_cases hf : s.fault = .none
    · exact .inr ⟨hf, by rw [← step_runs s hl hf, h]⟩
    · rw [step_halted s hl hf] at h
      exact .inl ⟨hf, by simpa using h.symm⟩

end Sys2Proof.Machine
end

