-- ==== Sys2Proof/Laws/Frame.lean ====
section
/-! SUPPORT. The frame of each shared operation: the parts it may change. The frame of an instruction is put together
from these with `ChangesOnly.trans` and `ChangesOnly.mono`. -/

namespace Sys2Proof.Machine

theorem ChangesOnly.refl (may : StatePart → Prop) (s : State) : ChangesOnly may s s := fun _ _ => rfl

theorem ChangesOnly.mono {may may' : StatePart → Prop} {s t : State} (h : ChangesOnly may s t)
    (hm : ∀ p, may p → may' p) : ChangesOnly may' s t := fun p hp => h p fun hq => hp (hm p hq)

theorem ChangesOnly.trans {may may' : StatePart → Prop} {s t u : State} (h : ChangesOnly may s t)
    (h' : ChangesOnly may' t u) : ChangesOnly (fun p => may p ∨ may' p) s u := fun p hp => by
  rw [h' p fun hq => hp (.inr hq), h p fun hq => hp (.inl hq)]

theorem changesOnly_advance (s : State) : ChangesOnly (fun p => p = .pc) s s.advance := by
  intro p hp
  cases p <;> first | rfl | exact absurd rfl hp

theorem changesOnly_markStarted (s : State) : ChangesOnly (fun p => p = .started) s s.markStarted := by
  intro p hp
  cases p <;> first | rfl | exact absurd rfl hp

theorem changesOnly_setV (s : State) (x : Reg) (b : Byte) : ChangesOnly (fun p => p = .v x) s (s.setV x b) := by
  intro p hp
  cases p with
  | v r =>
    have : r ≠ x := fun h => hp (h ▸ rfl)
    simp [StatePart.value, State.getV_setV_ne s b this]
  | _ => rfl

theorem changesOnly_setVFlag (s : State) (x : Reg) (b f : Byte) :
    ChangesOnly (fun p => p = .v x ∨ p = .v vf) s (s.setVFlag x b f) :=
  (changesOnly_setV s x b).trans (changesOnly_setV (s.setV x b) vf f)

theorem changesOnly_setI (s : State) (a : Half) : ChangesOnly (fun p => p = .i) s (s.setI a) := by
  intro p hp
  cases p <;> first | rfl | exact absurd rfl hp

theorem changesOnly_jumpTo (s : State) (a : Half) : ChangesOnly (fun p => p = .pc) s (s.jumpTo a) := by
  intro p hp
  cases p <;> first | rfl | exact absurd rfl hp

theorem changesOnly_rollback (s : State) : ChangesOnly (fun p => p = .pc) s s.rollback := by
  intro p hp
  cases p <;> first | rfl | exact absurd rfl hp

theorem changesOnly_skipIf (s : State) (c : Bool) : ChangesOnly (fun p => p = .pc) s (s.skipIf c) := by
  intro p hp
  cases c <;> cases p <;> first | rfl | exact absurd rfl hp

theorem changesOnly_consumeDraw (s : State) : ChangesOnly (fun p => p = .draws) s s.consumeDraw := by
  intro p hp
  cases p <;> first | rfl | exact absurd rfl hp

theorem changesOnly_setDt (s : State) (b : Byte) : ChangesOnly (fun p => p = .dt) s (s.setDt b) := by
  intro p hp
  cases p <;> first | rfl | exact absurd rfl hp

theorem changesOnly_setSt (s : State) (b : Byte) : ChangesOnly (fun p => p = .st) s (s.setSt b) := by
  intro p hp
  cases p <;> first | rfl | exact absurd rfl hp

theorem changesOnly_fault (s : State) (e : FaultStatus) :
    ChangesOnly (fun p => p = .fault) s { s with fault := e } := by
  intro p hp
  cases p <;> first | rfl | exact absurd rfl hp

/-- A transfer to memory changes the bytes at its addresses alone. -/
theorem changesOnly_storeAtI (s : State) (l : List Byte) :
    ChangesOnly (fun p => ∃ k a, k < l.length ∧ a.val = transferAddr s k ∧ p = .mem a) s (s.storeAtI l) := by
  intro p hp
  cases p with
  | mem a =>
    have hne : ∀ k, k < l.length → maskAddr a.val ≠ maskAddr (s.i.toNat + k) := by
      intro k hk he
      rw [maskAddr_of_lt a.isLt] at he
      exact hp ⟨k, a, hk, by rw [he, transferAddr], rfl⟩
    have := Memory.read_writeBytes_ne l s.mem s.i.toNat a.val hne
    simp [StatePart.value, this]
  | _ => rfl

theorem changesOnly_loadFromI (s : State) (x : Reg) :
    ChangesOnly (fun p => ∃ k, k ≤ x ∧ p = .v k) s (s.loadFromI x) := by
  intro p hp
  cases p with
  | v r =>
    have : ¬ r ≤ x := fun h => hp ⟨r, h, rfl⟩
    simp [StatePart.value, State.getV_loadFromI, this]
  | _ => simp [StatePart.value]

theorem changesOnly_waitKey (s : State) (x : Reg) :
    ChangesOnly (fun p => p = .pc ∨ p = .v x) s (s.waitKey x) := by
  cases h : s.leastKeyDown with
  | none =>
    rw [State.waitKey_none s x h]
    exact (changesOnly_rollback s).mono fun _ => .inl
  | some k =>
    rw [State.waitKey_some s x h]
    exact (changesOnly_setV s x _).mono fun _ => .inr

theorem changesOnly_clearScreen (s : State) :
    ChangesOnly (fun p => ∃ col row, p = .cell col row) s (State.clearScreen false s) := by
  intro p hp
  cases p with
  | cell col row => exact absurd ⟨col, row, rfl⟩ hp
  | dirty => simp [StatePart.value]
  | _ => rfl

theorem changesOnly_drawSprite (s : State) (w : Nat) (a b : Byte) (n : Nat) :
    ChangesOnly (fun p => p = .v vf ∨ p = .dirty ∨ ∃ col row, p = .cell col row) s (State.drawSprite w a b n s) := by
  intro p hp
  cases p with
  | v r =>
    have : r ≠ vf := fun h => hp (.inl (h ▸ rfl))
    simp [StatePart.value, State.drawSprite_getV, this]
  | dirty => exact absurd (.inr (.inl rfl)) hp
  | cell col row => exact absurd (.inr (.inr ⟨col, row, rfl⟩)) hp
  | _ => rfl

/-- A push changes SP and the entry it writes alone. -/
theorem changesOnly_push (s : State) (h : s.sp.val < 16) (w : Half) (sp' : Fin 17) :
    ChangesOnly (fun p => p = .sp ∨ p = .stack ⟨s.sp.val, h⟩) s
      { s with stack := s.stack.set s.sp.val w h, sp := sp' } := by
  intro p hp
  cases p with
  | sp => exact absurd (.inl rfl) hp
  | stack k =>
    have : ¬ s.sp.val = k.val := fun he => hp (.inr (by simp [he]))
    simp [StatePart.value, Vector.get_eq_getElem, this]
  | _ => rfl

theorem changesOnly_pop (s : State) (a : Half) (sp' : Fin 17) :
    ChangesOnly (fun p => p = .pc ∨ p = .sp) s { s with pc := a, sp := sp' } := by
  intro p hp
  cases p <;> first | rfl | exact absurd (.inl rfl) hp | exact absurd (.inr rfl) hp

/-- An instruction that completes changes PC and what its body changes. -/
theorem changesOnly_retire {may : StatePart → Prop} {s t : State} {body : State → State} (h : retire s body = .next t)
    (hb : ChangesOnly may s.advance (body s.advance)) : ChangesOnly (fun p => p = .pc ∨ may p) s t := by
  rw [retire_eq] at h
  obtain rfl : body s.advance = t := by simpa using h
  exact (changesOnly_advance s).trans hb

/-- The address of a transfer does not depend on PC. -/
@[simp] theorem transferAddr_advance (s : State) (k : Nat) : transferAddr s.advance k = transferAddr s k := rfl

theorem State.byteAtI_eq_read (s : State) (k : Nat) : s.byteAtI k = s.mem.read (transferAddr s k) := by
  simp [State.byteAtI, transferAddr]

theorem State.storeAtI_read (s : State) (l : List Byte) (k : Nat) (hl : l.length ≤ 4096) (hk : k < l.length) :
    (s.storeAtI l).mem.read (transferAddr s k) = l[k] := by
  simp only [transferAddr, Memory.read_maskAddr, State.storeAtI_mem]
  exact Memory.read_writeBytes l s.mem s.i.toNat k hl hk

end Sys2Proof.Machine
end

