-- ==== Sys2Proof/Laws/PerInstr.lean ====
section
/-! SUPPORT. Statements made once for each constructor of Instr. OpcodeRow: the encoder's word has, in every fixed field
of the instruction's row of spec/opcode_table.json, the value the row gives. -/

namespace Sys2Proof.Laws.OpcodeRow

/-- The fixed fields of an instruction's row of the opcode table, copied from its "fixed": (hi, lo, value). -/
def fixedFields : Instr → List (Nat × Nat × Nat)
  | .cls => [(15, 0, 224)]
  | .ret => [(15, 0, 238)]
  | .jp _ => [(15, 12, 1)]
  | .call _ => [(15, 12, 2)]
  | .seImm _ _ => [(15, 12, 3)]
  | .sneImm _ _ => [(15, 12, 4)]
  | .seReg _ _ => [(3, 0, 0), (15, 12, 5)]
  | .ldImm _ _ => [(15, 12, 6)]
  | .addImm _ _ => [(15, 12, 7)]
  | .ldReg _ _ => [(3, 0, 0), (15, 12, 8)]
  | .orReg _ _ => [(3, 0, 1), (15, 12, 8)]
  | .andReg _ _ => [(3, 0, 2), (15, 12, 8)]
  | .xorReg _ _ => [(3, 0, 3), (15, 12, 8)]
  | .addReg _ _ => [(3, 0, 4), (15, 12, 8)]
  | .sub _ _ => [(3, 0, 5), (15, 12, 8)]
  | .shr _ _ => [(3, 0, 6), (15, 12, 8)]
  | .subn _ _ => [(3, 0, 7), (15, 12, 8)]
  | .shl _ _ => [(3, 0, 14), (15, 12, 8)]
  | .sneReg _ _ => [(3, 0, 0), (15, 12, 9)]
  | .ldI _ => [(15, 12, 10)]
  | .jpV0 _ => [(15, 12, 11)]
  | .rnd _ _ => [(15, 12, 12)]
  | .drw _ _ _ => [(15, 12, 13)]
  | .skp _ => [(7, 0, 158), (15, 12, 14)]
  | .sknp _ => [(7, 0, 161), (15, 12, 14)]
  | .ldVDt _ => [(7, 0, 7), (15, 12, 15)]
  | .ldVK _ => [(7, 0, 10), (15, 12, 15)]
  | .ldDtV _ => [(7, 0, 21), (15, 12, 15)]
  | .ldStV _ => [(7, 0, 24), (15, 12, 15)]
  | .addI _ => [(7, 0, 30), (15, 12, 15)]
  | .ldF _ => [(7, 0, 41), (15, 12, 15)]
  | .ldB _ => [(7, 0, 51), (15, 12, 15)]
  | .ldMemV _ => [(7, 0, 85), (15, 12, 15)]
  | .ldVMem _ => [(7, 0, 101), (15, 12, 15)]
  | .unassigned0 _ => [(15, 12, 0)]
  | .unassigned5 _ _ _ => [(15, 12, 5)]
  | .unassigned8 _ _ _ => [(15, 12, 8)]
  | .unassigned9 _ _ _ => [(15, 12, 9)]
  | .unassignedE _ _ => [(15, 12, 14)]
  | .unassignedF _ _ => [(15, 12, 15)]

/-- Every fixed field of the row has its value in the encoded word. -/
def Statement (i : Instr) : Prop :=
  ∀ f ∈ fixedFields i, (encode i).toNat / 2 ^ f.2.1 % 2 ^ (f.1 + 1 - f.2.1) = f.2.2

theorem statement_of {i : Instr} (fs : List (Nat × Nat × Nat)) {w : Nat} (hf : fixedFields i = fs)
    (hw : (encode i).toNat = w) (h : ∀ f ∈ fs, w / 2 ^ f.2.1 % 2 ^ (f.1 + 1 - f.2.1) = f.2.2) : Statement i := by
  intro f hm
  rw [hw]
  exact h f (hf ▸ hm)

theorem cls : Statement .cls :=
  statement_of [(15, 0, 224)] rfl (w := 224) rfl (by simp)

theorem ret : Statement .ret :=
  statement_of [(15, 0, 238)] rfl (w := 238) rfl (by simp)

theorem jp (nnn : Addr12) : Statement (.jp nnn) :=
  statement_of [(15, 12, 1)] rfl (wordNNN_toNat _ _) (by have := nnn.isLt; simp; omega)

theorem call (nnn : Addr12) : Statement (.call nnn) :=
  statement_of [(15, 12, 2)] rfl (wordNNN_toNat _ _) (by have := nnn.isLt; simp; omega)

theorem seImm (x : Reg) (nn : Byte) : Statement (.seImm x nn) :=
  statement_of [(15, 12, 3)] rfl (wordXNN_toNat _ _ _) (by have := nn.isLt; simp; omega)

theorem sneImm (x : Reg) (nn : Byte) : Statement (.sneImm x nn) :=
  statement_of [(15, 12, 4)] rfl (wordXNN_toNat _ _ _) (by have := nn.isLt; simp; omega)

theorem seReg (x : Reg) (y : Reg) : Statement (.seReg x y) :=
  statement_of [(3, 0, 0), (15, 12, 5)] rfl (wordXYN_toNat _ _ _ _) (by simp; omega)

theorem ldImm (x : Reg) (nn : Byte) : Statement (.ldImm x nn) :=
  statement_of [(15, 12, 6)] rfl (wordXNN_toNat _ _ _) (by have := nn.isLt; simp; omega)

theorem addImm (x : Reg) (nn : Byte) : Statement (.addImm x nn) :=
  statement_of [(15, 12, 7)] rfl (wordXNN_toNat _ _ _) (by have := nn.isLt; simp; omega)

theorem ldReg (x : Reg) (y : Reg) : Statement (.ldReg x y) :=
  statement_of [(3, 0, 0), (15, 12, 8)] rfl (wordXYN_toNat _ _ _ _) (by simp; omega)

theorem orReg (x : Reg) (y : Reg) : Statement (.orReg x y) :=
  statement_of [(3, 0, 1), (15, 12, 8)] rfl (wordXYN_toNat _ _ _ _) (by simp; omega)

theorem andReg (x : Reg) (y : Reg) : Statement (.andReg x y) :=
  statement_of [(3, 0, 2), (15, 12, 8)] rfl (wordXYN_toNat _ _ _ _) (by simp; omega)

theorem xorReg (x : Reg) (y : Reg) : Statement (.xorReg x y) :=
  statement_of [(3, 0, 3), (15, 12, 8)] rfl (wordXYN_toNat _ _ _ _) (by simp; omega)

theorem addReg (x : Reg) (y : Reg) : Statement (.addReg x y) :=
  statement_of [(3, 0, 4), (15, 12, 8)] rfl (wordXYN_toNat _ _ _ _) (by simp; omega)

theorem sub (x : Reg) (y : Reg) : Statement (.sub x y) :=
  statement_of [(3, 0, 5), (15, 12, 8)] rfl (wordXYN_toNat _ _ _ _) (by simp; omega)

theorem shr (x : Reg) (y : Reg) : Statement (.shr x y) :=
  statement_of [(3, 0, 6), (15, 12, 8)] rfl (wordXYN_toNat _ _ _ _) (by simp; omega)

theorem subn (x : Reg) (y : Reg) : Statement (.subn x y) :=
  statement_of [(3, 0, 7), (15, 12, 8)] rfl (wordXYN_toNat _ _ _ _) (by simp; omega)

theorem shl (x : Reg) (y : Reg) : Statement (.shl x y) :=
  statement_of [(3, 0, 14), (15, 12, 8)] rfl (wordXYN_toNat _ _ _ _) (by simp; omega)

theorem sneReg (x : Reg) (y : Reg) : Statement (.sneReg x y) :=
  statement_of [(3, 0, 0), (15, 12, 9)] rfl (wordXYN_toNat _ _ _ _) (by simp; omega)

theorem ldI (nnn : Addr12) : Statement (.ldI nnn) :=
  statement_of [(15, 12, 10)] rfl (wordNNN_toNat _ _) (by have := nnn.isLt; simp; omega)

theorem jpV0 (nnn : Addr12) : Statement (.jpV0 nnn) :=
  statement_of [(15, 12, 11)] rfl (wordNNN_toNat _ _) (by have := nnn.isLt; simp; omega)

theorem rnd (x : Reg) (nn : Byte) : Statement (.rnd x nn) :=
  statement_of [(15, 12, 12)] rfl (wordXNN_toNat _ _ _) (by have := nn.isLt; simp; omega)

theorem drw (x : Reg) (y : Reg) (n : BitVec 4) : Statement (.drw x y n) :=
  statement_of [(15, 12, 13)] rfl (wordXYN_toNat _ _ _ _) (by have := n.isLt; simp; omega)

theorem skp (x : Reg) : Statement (.skp x) :=
  statement_of [(7, 0, 158), (15, 12, 14)] rfl (wordXNN_toNat _ _ _) (by simp; omega)

theorem sknp (x : Reg) : Statement (.sknp x) :=
  statement_of [(7, 0, 161), (15, 12, 14)] rfl (wordXNN_toNat _ _ _) (by simp; omega)

theorem ldVDt (x : Reg) : Statement (.ldVDt x) :=
  statement_of [(7, 0, 7), (15, 12, 15)] rfl (wordXNN_toNat _ _ _) (by simp; omega)

theorem ldVK (x : Reg) : Statement (.ldVK x) :=
  statement_of [(7, 0, 10), (15, 12, 15)] rfl (wordXNN_toNat _ _ _) (by simp; omega)

theorem ldDtV (x : Reg) : Statement (.ldDtV x) :=
  statement_of [(7, 0, 21), (15, 12, 15)] rfl (wordXNN_toNat _ _ _) (by simp; omega)

theorem ldStV (x : Reg) : Statement (.ldStV x) :=
  statement_of [(7, 0, 24), (15, 12, 15)] rfl (wordXNN_toNat _ _ _) (by simp; omega)

theorem addI (x : Reg) : Statement (.addI x) :=
  statement_of [(7, 0, 30), (15, 12, 15)] rfl (wordXNN_toNat _ _ _) (by simp; omega)

theorem ldF (x : Reg) : Statement (.ldF x) :=
  statement_of [(7, 0, 41), (15, 12, 15)] rfl (wordXNN_toNat _ _ _) (by simp; omega)

theorem ldB (x : Reg) : Statement (.ldB x) :=
  statement_of [(7, 0, 51), (15, 12, 15)] rfl (wordXNN_toNat _ _ _) (by simp; omega)

theorem ldMemV (x : Reg) : Statement (.ldMemV x) :=
  statement_of [(7, 0, 85), (15, 12, 15)] rfl (wordXNN_toNat _ _ _) (by simp; omega)

theorem ldVMem (x : Reg) : Statement (.ldVMem x) :=
  statement_of [(7, 0, 101), (15, 12, 15)] rfl (wordXNN_toNat _ _ _) (by simp; omega)

theorem unassigned0 (nnn : Addr12) : Statement (.unassigned0 nnn) :=
  statement_of [(15, 12, 0)] rfl (wordNNN_toNat _ _) (by have := nnn.isLt; simp; omega)

theorem unassigned5 (x : Reg) (y : Reg) (n : BitVec 4) : Statement (.unassigned5 x y n) :=
  statement_of [(15, 12, 5)] rfl (wordXYN_toNat _ _ _ _) (by have := n.isLt; simp; omega)

theorem unassigned8 (x : Reg) (y : Reg) (n : BitVec 4) : Statement (.unassigned8 x y n) :=
  statement_of [(15, 12, 8)] rfl (wordXYN_toNat _ _ _ _) (by have := n.isLt; simp; omega)

theorem unassigned9 (x : Reg) (y : Reg) (n : BitVec 4) : Statement (.unassigned9 x y n) :=
  statement_of [(15, 12, 9)] rfl (wordXYN_toNat _ _ _ _) (by have := n.isLt; simp; omega)

theorem unassignedE (x : Reg) (nn : Byte) : Statement (.unassignedE x nn) :=
  statement_of [(15, 12, 14)] rfl (wordXNN_toNat _ _ _) (by have := nn.isLt; simp; omega)

theorem unassignedF (x : Reg) (nn : Byte) : Statement (.unassignedF x nn) :=
  statement_of [(15, 12, 15)] rfl (wordXNN_toNat _ _ _) (by have := nn.isLt; simp; omega)

end Sys2Proof.Laws.OpcodeRow
end

