-- ==== Sys2Proof/Laws/Run.lean ====
section
/-! SUPPORT. Runs of several steps, and sequences of transactions, taken one at a time. -/

namespace Sys2Proof.Machine

theorem run_succ_of_next (M : Host.Core) (s s' : M.State) (n : Nat) (h : M.step s = .next s') :
    M.run (n + 1) s = M.run n s' := by
  rw [Host.Core.run, h]

/-- A run makes its first step, then the rest. -/
theorem core_run_succ {s s' : State} (n : Nat) (h : step s = .next s') : core.run (n + 1) s = core.run n s' :=
  run_succ_of_next core s s' n h

/-- A state that steps to itself is left by no number of steps. -/
theorem core_run_fixed {s : State} (n : Nat) (h : step s = .next s) : core.run n s = .next s := by
  induction n with
  | zero => rfl
  | succ n ih => rw [core_run_succ n h, ih]

theorem runActions_cons {a : Action} {s s' : State} {r : Response} (rest : List Action)
    (h : act a s = .next (s', r)) : runActions (a :: rest) s = runActions rest s' := by
  rw [runActions, h]

/-- What a transaction can do to the state: one of these, and nothing when it is refused. -/
theorem act_cases {a : Action} {s t : State} {r : Response} (h : act a s = .next (t, r)) :
    (∃ bytes, a = .load bytes ∧ s.loadAdmitted = true ∧ t = (s.loadRom bytes).1) ∨
    (a = .step ∧ step s = .next t) ∨ t = s.tickTimers ∨ (∃ k, t = s.pressKey k) ∨ (∃ k, t = s.releaseKey k) ∨
    t = s.clearDirty ∨ t = s := by
  cases a with
  | load bytes =>
    simp only [act] at h
    split at h
    · rename_i hl
      cases h
      exact .inl ⟨bytes, rfl, hl, rfl⟩
    · cases h
  | step =>
    simp only [act] at h
    split at h
    · rename_i s' hs
      cases h
      exact .inr (.inl ⟨rfl, hs⟩)
    · cases h
    · cases h
  | tickTimers => cases h; simp
  | keyDown k => cases h; exact .inr (.inr (.inr (.inl ⟨k, rfl⟩)))
  | keyUp k => cases h; exact .inr (.inr (.inr (.inr (.inl ⟨k, rfl⟩))))
  | clearDirty => cases h; simp
  | readFramebuffer => cases h; simp
  | readDirty => cases h; simp
  | readDt => cases h; simp
  | readSt => cases h; simp
  | readSound => cases h; simp
  | readFault => cases h; simp

/-- What `load` does when the ROM fits (70_reset_and_hazards R261). -/
theorem loadRom_fits (s : State) (bytes : List Byte) (h : bytes.length ≤ 0xE00) :
    s.loadRom bytes = ({ s with mem := s.mem.writeBytes 0x200 bytes, loaded := true }, .ok) := by
  simp [State.loadRom, Config.romMax, Nat.not_lt.2 h]

theorem loadRom_too_large (s : State) (bytes : List Byte) (h : bytes.length > 0xE00) :
    s.loadRom bytes = (s, .romTooLarge) := by
  simp [State.loadRom, Config.romMax, h]

theorem tickTimer_toNat (t : Byte) : (tickTimer t).toNat = t.toNat - 1 := by
  have := t.isLt
  unfold tickTimer
  split
  · simp [BitVec.toNat_sub]
    omega
  · simp
    omega

end Sys2Proof.Machine
end

