-- ==== Sys2Proof/Tests/Slice0.lean ====
section
/-! SUPPORT. Tests on fixed values. Every expected value is from spec/95_test_vectors.md or from the rule named in the test's
comment, never from the model. Then one witness for each statement with hypotheses. -/

namespace Sys2Proof.Tests

open Sys2Proof Sys2Proof.Machine

/-! ### Helpers -/

/-- The start state of 95_test_vectors.md: `create()` and a successful load. -/
def base : State := { State.reset with loaded := true }

/-- One step of the word w placed at PC, and a check of the state after it. -/
def after (w : Nat) (s : State) (check : State → Bool) : Bool :=
  match step (s.withFetchWord 16 w) with
  | .next t => check t
  | .fault _ => false
  | .refused _ => false

/-- Bytes placed in memory from an address on. -/
def put (a : Nat) (bytes : List Byte) (s : State) : State := { s with mem := s.mem.writeBytes a bytes }

/-- The positions of the true entries of a list, counted from k. -/
def litFrom : Nat → List Bool → List Nat
  | _, [] => []
  | k, true :: rest => k :: litFrom (k + 1) rest
  | k, false :: rest => litFrom (k + 1) rest

/-- The cells that are 1, each as row * 64 + col (10_state R29), in rising order. -/
def lit (s : State) : List Nat := litFrom 0 s.fb.toList

/-- A cell set to 1. -/
def light (col : Fin 64) (row : Fin 32) (s : State) : State :=
  { s with fb := s.fb.set (cellIndex col row).val true (cellIndex col row).isLt }

/-! ### WellFormed refuses a term that spells another instruction -/

theorem test_illformed_unassigned0_cls : (Instr.unassigned0 0x0E0).wellFormed = false := by decide
theorem test_illformed_unassigned0_ret : (Instr.unassigned0 0x0EE).wellFormed = false := by decide
theorem test_illformed_unassigned5 : (Instr.unassigned5 1 2 0).wellFormed = false := by decide
theorem test_illformed_unassigned8 :
    ([0, 1, 2, 3, 4, 5, 6, 7, 0xE] : List (BitVec 4)).all (fun n => !(Instr.unassigned8 1 2 n).wellFormed) = true := by
  decide
theorem test_illformed_unassigned9 : (Instr.unassigned9 1 2 0).wellFormed = false := by decide
theorem test_illformed_unassignedE :
    ([0x9E, 0xA1] : List Byte).all (fun nn => !(Instr.unassignedE 1 nn).wellFormed) = true := by decide
theorem test_illformed_unassignedF :
    ([0x07, 0x0A, 0x15, 0x18, 0x1E, 0x29, 0x33, 0x55, 0x65] : List Byte).all
      (fun nn => !(Instr.unassignedF 1 nn).wellFormed) = true := by decide

/-! ### Decoding: one word for each constructor, written out from the patterns of 30_encoding R80 and R83 -/

theorem test_decode_flow :
    decode 0b0000000011101110 = .ret ∧ decode 0b0001101010111100 = .jp 0xABC ∧ decode 0b0010001101000101 = .call 0x345 ∧
      decode 0b0011001100101010 = .seImm 3 0x2A ∧ decode 0b0100001100101010 = .sneImm 3 0x2A ∧
      decode 0b0101000100100000 = .seReg 1 2 ∧ decode 0b1001000100100000 = .sneReg 1 2 ∧
      decode 0b1011001100000000 = .jpV0 0x300 := by decide
theorem test_decode_alu :
    decode 0b0110101001111011 = .ldImm 0xA 0x7B ∧ decode 0b0111000100001010 = .addImm 1 0x0A ∧
      decode 0b1000000100100000 = .ldReg 1 2 ∧ decode 0b1000000100100001 = .orReg 1 2 ∧
      decode 0b1000000100100010 = .andReg 1 2 ∧ decode 0b1000000100100011 = .xorReg 1 2 ∧
      decode 0b1000000100100100 = .addReg 1 2 ∧ decode 0b1000000100100101 = .sub 1 2 ∧
      decode 0b1000000100100110 = .shr 1 2 ∧ decode 0b1000000100100111 = .subn 1 2 ∧
      decode 0b1000000100101110 = .shl 1 2 ∧ decode 0b1100000100001111 = .rnd 1 0x0F := by decide
theorem test_decode_index :
    decode 0b1010001100000000 = .ldI 0x300 ∧ decode 0b1111000100011110 = .addI 1 ∧ decode 0b1111000100101001 = .ldF 1 ∧
      decode 0b1111101000110011 = .ldB 0xA ∧ decode 0b1111001001010101 = .ldMemV 2 ∧
      decode 0b1111001001100101 = .ldVMem 2 := by decide
theorem test_decode_display :
    decode 0b0000000011100000 = .cls ∧ decode 0b1101101010110011 = .drw 0xA 0xB 3 := by decide
theorem test_decode_keys_timers :
    decode 0b1110000110011110 = .skp 1 ∧ decode 0b1110000110100001 = .sknp 1 ∧ decode 0b1111000100000111 = .ldVDt 1 ∧
      decode 0b1111001100001010 = .ldVK 3 ∧ decode 0b1111000100010101 = .ldDtV 1 ∧
      decode 0b1111000100011000 = .ldStV 1 := by decide
theorem test_decode_unassigned :
    decode 0x0000 = .unassigned0 0 ∧ decode 0x01E0 = .unassigned0 0x1E0 ∧ decode 0x5121 = .unassigned5 1 2 1 ∧
      decode 0x8128 = .unassigned8 1 2 8 ∧ decode 0x812F = .unassigned8 1 2 0xF ∧ decode 0x9121 = .unassigned9 1 2 1 ∧
      decode 0xE1A0 = .unassignedE 1 0xA0 ∧ decode 0xF175 = .unassignedF 1 0x75 := by decide
/-- 30_encoding R70: an instruction has two bytes, high first (20_memory R54). -/
theorem test_decode_bytes :
    decodeBytes [0x61, 0x42, 0x99] = .ok (.ldImm 1 0x42, [0x99]) ∧ encodeBytes (.ldImm 1 0x42) = [0x61, 0x42] := by
  decide
theorem test_decode_truncated : decodeBytes [0x61] = .error .truncated ∧ decodeBytes [] = .error .truncated := by decide
theorem test_decode_table_word : decodeTableWord 16 0x8126 = some (.shr 1 2) := by decide

/-! ### One step (95_test_vectors.md part 2) -/

theorem test_fetch_across_top :
    after 0x6142 ({ base with pc := 0xFFF })
      (fun t => t.getV 1 == 0x42 && t.pc == 0x1001 && t.mem.read 0 == 0x42) = true := by decide
theorem test_fetch_high_pc :
    after 0x00E0 ({ light 5 5 base with pc := 0x1001 })
      (fun t => t.mem.read 1 == 0x00 && t.mem.read 2 == 0xE0 && t.pc == 0x1003 && lit t == []) = true := by decide +kernel
theorem test_pc_wraps :
    after 0x6000 ({ base with pc := 0xFFFE })
      (fun t => t.pc == 0 && t.mem.read 0xFFE == 0x60) = true := by decide
theorem test_jp : after 0x1ABC (base) (fun t => t.pc == 0xABC) = true := by decide
theorem test_call_pushes_unmasked_pc :
    after 0x2400 ({ base with pc := 0xFFE })
      (fun t => t.pc == 0x400 && t.sp == 1 && t.stack.get 0 == 0x1000) = true := by decide
theorem test_call_overflow :
    after 0x2345 ({ base with sp := 16 })
      (fun t => t.fault == .stackOverflow && t.pc == 0x200 && t.sp == 16 && t.stack == base.stack) = true := by decide
theorem test_ret :
    after 0x00EE ({ base with sp := 1, stack := base.stack.set 0 0x206 })
      (fun t => t.pc == 0x206 && t.sp == 0 && t.stack.get 0 == 0x206) = true := by decide
theorem test_ret_underflow :
    after 0x00EE (base)
      (fun t => t.fault == .stackUnderflow && t.pc == 0x200 && t.sp == 0 && t.started) = true := by decide
theorem test_jp_v0_adds_nothing : after 0xB300 (base.setV 0 0x10) (fun t => t.pc == 0x300) = true := by decide
theorem test_se_imm_equal : after 0x332A (base.setV 3 0x2A) (fun t => t.pc == 0x204) = true := by decide
theorem test_se_imm_at_ffe : after 0x3000 ({ base with pc := 0xFFE }) (fun t => t.pc == 0x1002) = true := by decide
theorem test_sne_imm_unequal : after 0x432A (base.setV 3 0x2B) (fun t => t.pc == 0x204) = true := by decide
theorem test_sne_imm_equal : after 0x432A (base.setV 3 0x2A) (fun t => t.pc == 0x202) = true := by decide
theorem test_se_reg_equal : after 0x5120 ((base.setV 1 7).setV 2 7) (fun t => t.pc == 0x204) = true := by decide
theorem test_se_reg_unequal : after 0x5120 ((base.setV 1 7).setV 2 8) (fun t => t.pc == 0x202) = true := by decide
theorem test_sne_reg_unequal : after 0x9120 ((base.setV 1 7).setV 2 8) (fun t => t.pc == 0x204) = true := by decide
theorem test_sne_reg_equal : after 0x9120 ((base.setV 1 7).setV 2 7) (fun t => t.pc == 0x202) = true := by decide
theorem test_ld_imm : after 0x6A7B (base) (fun t => t.getV 0xA == 0x7B && t.pc == 0x202) = true := by decide
theorem test_add_imm_wraps :
    after 0x710A ((base.setV 1 250).setV 15 7)
      (fun t => t.getV 1 == 4 && t.getV 15 == 7) = true := by decide
theorem test_add_imm_into_vf : after 0x7F01 (base.setV 15 255) (fun t => t.getV 15 == 0) = true := by decide
theorem test_ld_reg :
    after 0x8120 ((base.setV 1 3).setV 2 0x55)
      (fun t => t.getV 1 == 0x55 && t.getV 2 == 0x55) = true := by decide
theorem test_or :
    after 0x8121 (((base.setV 1 0x0F).setV 2 0xF0).setV 15 5)
      (fun t => t.getV 1 == 0xFF && t.getV 15 == 5) = true := by decide
theorem test_and :
    after 0x8122 (((base.setV 1 0x3C).setV 2 0x0F).setV 15 5)
      (fun t => t.getV 1 == 0x0C && t.getV 15 == 5) = true := by decide
theorem test_xor :
    after 0x8123 (((base.setV 1 0x3C).setV 2 0x0F).setV 15 5)
      (fun t => t.getV 1 == 0x33 && t.getV 15 == 5) = true := by decide
theorem test_add_reg_256 :
    after 0x8124 ((base.setV 1 200).setV 2 56)
      (fun t => t.getV 1 == 0 && t.getV 15 == 1) = true := by decide
theorem test_add_reg_flag_wins : after 0x8F14 ((base.setV 15 255).setV 1 1) (fun t => t.getV 15 == 1) = true := by decide
theorem test_sub_borrow :
    after 0x8125 ((base.setV 1 3).setV 2 5)
      (fun t => t.getV 1 == 254 && t.getV 15 == 0) = true := by decide
theorem test_sub_equal :
    after 0x8125 ((base.setV 1 5).setV 2 5)
      (fun t => t.getV 1 == 0 && t.getV 15 == 1) = true := by decide
theorem test_shr_ignores_y :
    after 0x8126 ((base.setV 1 4).setV 2 0xFF)
      (fun t => t.getV 1 == 2 && t.getV 2 == 0xFF && t.getV 15 == 0) = true := by decide
theorem test_shr_flag_wins : after 0x8F06 (base.setV 15 2) (fun t => t.getV 15 == 0) = true := by decide
theorem test_subn_borrow :
    after 0x8127 ((base.setV 1 5).setV 2 3)
      (fun t => t.getV 1 == 254 && t.getV 15 == 0) = true := by decide
theorem test_subn_no_borrow :
    after 0x8127 ((base.setV 1 3).setV 2 5)
      (fun t => t.getV 1 == 2 && t.getV 15 == 1) = true := by decide
theorem test_shl : after 0x810E (base.setV 1 0x81) (fun t => t.getV 1 == 0x02 && t.getV 15 == 1) = true := by decide
theorem test_shl_flag_wins : after 0x8F0E (base.setV 15 0x40) (fun t => t.getV 15 == 0) = true := by decide
/-- 41_alu R132: nn = 0 gives 0, whatever the draw. -/
theorem test_rnd_zero : ∃ t, exec (.rnd 1 0x00) base = .next t ∧ t.getV 1 = 0 := ⟨_, rfl, by simp⟩
/-- 41_alu R132: nn = 0xFF gives the draw itself. -/
theorem test_rnd_all : ∃ t, exec (.rnd 1 0xFF) base = .next t ∧ t.getV 1 = Config.drawByte 0 := by
  refine ⟨_, rfl, ?_⟩
  rw [State.getV_setV_same]
  exact BitVec.and_allOnes
theorem test_ld_i : after 0xA300 (base) (fun t => t.i == 0x300) = true := by decide
theorem test_add_i_wraps :
    after 0xF11E ({ base with i := 0xFFF }.setV 1 1)
      (fun t => t.i == 0 && t.getV 15 == 1) = true := by decide
theorem test_add_i_old_vf :
    after 0xFF1E ({ base with i := 0xFFF }.setV 15 0x10)
      (fun t => t.i == 0x00F && t.getV 15 == 1) = true := by decide
theorem test_ld_f_low_nibble : after 0xF129 (base.setV 1 0x1A) (fun t => t.i == 0x082) = true := by decide
theorem test_ld_f_last : after 0xF129 (base.setV 1 0x0F) (fun t => t.i == 0x09B) = true := by decide
theorem test_bcd_255_wraps :
    after 0xF033 ({ base with i := 0xFFF }.setV 0 255)
      (fun t => t.mem.read 0xFFF == 2 && t.mem.read 0 == 5 && t.mem.read 1 == 5 && t.i == 0xFFF) = true := by decide
theorem test_bcd_123 :
    after 0xF033 ({ base with i := 0x300 }.setV 0 123)
      (fun t => t.mem.read 0x300 == 1 && t.mem.read 0x301 == 2 && t.mem.read 0x302 == 3) = true := by decide
theorem test_store_v0_v2 :
    after 0xF255 (((({ base with i := 0x300 }.setV 0 1).setV 1 2).setV 2 3).setV 3 4)
      (fun t => t.mem.read 0x300 == 1 && t.mem.read 0x302 == 3 && t.mem.read 0x303 == 0 && t.i == 0x300) = true := by decide
theorem test_store_all_wraps :
    after 0xFF55 ((({ base with i := 0xFF8 }.setV 7 0x17).setV 8 0x18).setV 15 0x1F)
      (fun t => t.mem.read 0xFFF == 0x17 && t.mem.read 0 == 0x18 && t.mem.read 7 == 0x1F) = true := by decide
theorem test_load_v0_v2 :
    after 0xF265 (put 0x300 [1, 2, 3, 4] { base with i := 0x300 })
      (fun t => t.getV 0 == 1 && t.getV 2 == 3 && t.getV 3 == 0 && t.i == 0x300) = true := by decide
/-- 10_state R33: bytes 0, 5 and 15 of the default FONT. -/
theorem test_load_font_and_vf :
    after 0xFF65 ({ base with i := 0x050 })
      (fun t => t.getV 0 == 0xF0 && t.getV 15 == 0xF0 && t.getV 5 == 0x20) = true := by decide
theorem test_cls_keeps_dirty :
    after 0x00E0 ({ light 63 31 base with dirty := true })
      (fun t => lit t == [] && t.dirty) = true := by decide +kernel
theorem test_cls_sets_no_dirty :
    after 0x00E0 (light 0 0 base)
      (fun t => lit t == [] && !t.dirty) = true := by decide +kernel
theorem test_draw_corner_clips :
    after 0xD013 (put 0x300 [0xFF, 0xFF, 0xFF] (({ base with i := 0x300 }.setV 0 0x7E).setV 1 0x3E))
      (fun t => lit t == [30 * 64 + 62, 30 * 64 + 63, 31 * 64 + 62, 31 * 64 + 63] && t.getV 15 == 0 && t.dirty) = true := by decide +kernel
theorem test_draw_collides :
    after 0xD011 (put 0x300 [0xA0] (((light 2 0 { base with i := 0x300 }).setV 0 2).setV 1 0))
      (fun t => lit t == [4] && t.getV 15 == 1) = true := by decide +kernel
/-- 43_display R173: under the alternative DRAW_Y_WRAP = 64 the corner draw starts at row 62 and every row is clipped. -/
theorem test_draw_wrap_64 :
    (fun t : State => lit t == [] && !t.dirty && t.getV 15 == 0)
      (State.drawSprite 64 0x7E 0x3E 3 (put 0x300 [0xFF, 0xFF, 0xFF] { base with i := 0x300 })) = true := by decide +kernel
theorem test_skp_low_nibble : after 0xE19E (base.setV 1 0x15 |>.pressKey 5) (fun t => t.pc == 0x204) = true := by decide
theorem test_skp_up : after 0xE19E (base.setV 1 5) (fun t => t.pc == 0x202) = true := by decide
theorem test_sknp_up : after 0xE1A1 (base.setV 1 3) (fun t => t.pc == 0x204) = true := by decide
theorem test_sknp_down : after 0xE1A1 (base.setV 1 3 |>.pressKey 3) (fun t => t.pc == 0x202) = true := by decide
theorem test_ld_v_dt :
    after 0xF107 ({ base with dt := 0x3C })
      (fun t => t.getV 1 == 0x3C && t.dt == 0x3C) = true := by decide
theorem test_ld_dt_v : after 0xF115 (base.setV 1 60) (fun t => t.dt == 60 && t.st == 0) = true := by decide
theorem test_ld_st_v : after 0xF118 (base.setV 1 2) (fun t => t.st == 2 && t.dt == 0) = true := by decide
theorem test_ld_k_two_keys :
    after 0xF30A ((base.pressKey 9).pressKey 7)
      (fun t => t.getV 3 == 7 && t.pc == 0x202 && t.keyDown 7 && t.keyDown 9) = true := by decide
theorem test_ld_k_waits :
    after 0xF30A ({ base with pc := 0xFFFE }.setV 3 9)
      (fun t => t.getV 3 == 9 && t.pc == 0xFFFE) = true := by decide
theorem test_unassigned_0 : after 0x0123 (base) (fun t => t.pc == 0x202 && t.fault == .none) = true := by decide
theorem test_unassigned_5_skips_nothing :
    after 0x5121 ((base.setV 1 7).setV 2 7)
      (fun t => t.pc == 0x202) = true := by decide
theorem test_unassigned_8 :
    after 0x8128 (((base.setV 1 3).setV 2 4).setV 15 9)
      (fun t => t.pc == 0x202 && t.getV 1 == 3 && t.getV 15 == 9) = true := by decide
theorem test_unassigned_9_skips_nothing :
    after 0x9121 ((base.setV 1 7).setV 2 8)
      (fun t => t.pc == 0x202) = true := by decide
theorem test_unassigned_e : after 0xE1A0 (base.setV 1 3) (fun t => t.pc == 0x202) = true := by decide
theorem test_unassigned_f : after 0xF100 (base) (fun t => t.pc == 0x202 && t.getV 1 == 0) = true := by decide

/-! ### The halted machine and the host (95_test_vectors.md 2.8, 2.9) -/

theorem test_halted_step : step { base with fault := .stackOverflow, pc := 0x0FF } =
    .next { base with fault := .stackOverflow, pc := 0x0FF, started := true } := step_halted _ rfl (by decide)
theorem test_step_before_load : step State.reset = .refused .stepBeforeLoad := rfl
theorem test_fetch_word_after_reset : after 0x6A7B State.reset (fun t => t.getV 0xA == 0x7B && t.pc == 0x202) = true := by decide
theorem test_load_reads_back :
    (fun r : State × LoadResult => r.1.mem.read 0x200 == 0x12 && r.1.mem.read 0x201 == 0x34 && r.1.loaded && r.2 == .ok)
      (State.reset.loadRom [0x12, 0x34]) = true := by decide
theorem test_load_too_large : (State.reset.loadRom (List.replicate 0xE01 1)).2 = .romTooLarge := by decide +kernel
theorem test_load_twice_refused : act (.load [0x12]) base = .refused .loadNotAdmitted := rfl
theorem test_ticks : ({ base with dt := 0x3C, st := 2 } : State).tickTimers.tickTimers.dt = 0x3A ∧
    ({ base with dt := 0x3C, st := 2 } : State).tickTimers.tickTimers.st = 0 := by decide
theorem test_tick_floor : ({ base with dt := 1 } : State).tickTimers.tickTimers.dt = 0 := by decide
theorem test_key_down_up : (base.pressKey 0xA).keyDown 0xA = true ∧ ((base.pressKey 0xA).releaseKey 0xA).keyDown 0xA = false := by
  decide
theorem test_fault_code : act .readFault { base with fault := .stackUnderflow } =
    .next ({ base with fault := .stackUnderflow }, .status 2) := rfl
theorem test_memory_form : Memory.write (Memory.write (Memory.write [] 0x1300 7) 0x2FF 1) 0x300 0 = [(0x2FF, 1)] := by decide
theorem test_reset_memory_wf : State.reset.mem.wf = true := by decide

/-! ### Witnesses: the hypotheses of each statement can be met, at the bounds of their ranges -/

theorem witness_DecodeOfEncode : (Instr.unassigned8 15 15 0xF).wellFormed = true ∧ (Instr.drw 15 0 0xF).wellFormed = true := by
  decide
theorem witness_StepRunsDecodedInstruction :
    ∃ (s : State) (i : Instr), s.loaded = true ∧ s.fault = .none ∧
      decodeBytes [s.mem.read s.pc.toNat, s.mem.read (s.pc.toNat + 1)] = .ok (i, []) :=
  ⟨{ base with pc := 0xFFFF }, .unassigned0 0, by decide⟩
theorem witness_StepRunsStoredEncoding : base.loaded = true ∧ base.fault = .none ∧ (Instr.ldImm 0xA 0x7B).wellFormed = true := by
  decide
theorem witness_StoredBytesAreFetched : 1 ≤ (1 : Reg).val ∧ 1 ≤ (15 : Reg).val := by decide
theorem witness_CallPushesOrOverflows :
    ({ base with sp := 15 } : State).sp.val < 16 ∧ base.sp.val < 16 ∧ ({ base with sp := 16 } : State).sp.val = 16 := by decide
theorem witness_ReturnPopsOrUnderflows :
    0 < ({ base with sp := 1 } : State).sp.val ∧ 0 < ({ base with sp := 16 } : State).sp.val ∧ base.sp.val = 0 := by decide
theorem witness_ReturnUndoesCall :
    ({ base with sp := 15 } : State).sp.val < 16 ∧ ∃ u t : State, exec (.call 0x300) { base with sp := 15 } = .next t ∧
      u.sp = t.sp ∧ u.stack = t.stack := ⟨by decide, _, _, rfl, rfl, rfl⟩
theorem witness_flag_clauses : (14 : Reg) ≠ vf ∧ (0 : Reg) ≠ vf := by decide
theorem witness_StoreRegistersAtI : (15 : Reg) ≤ 15 ∧ (0 : Reg) ≤ 0 ∧ (0 : Reg) ≤ 15 := by decide
theorem witness_LoadGivesBackStoredRegisters :
    ∃ u t : State, exec (.ldMemV 15) base = .next t ∧ u.i = base.i ∧ ∀ a, u.mem.read a = t.mem.read a :=
  ⟨_, _, rfl, rfl, fun _ => rfl⟩
theorem witness_DrawInvertsSpriteCells_collision :
    (light 0 0 base).pixel 0 0 = true ∧ spriteBit (fun _ => 0x80) 0 0 1 0 0 = true := by decide +kernel
theorem witness_DrawInvertsSpriteCells_clear : ∀ col row, spriteBit (fun _ => 0) 0 0 15 col row = false := by
  simp [spriteBit]
theorem witness_DrawTwiceRestoresTheFrame : (0 : Reg) ≠ vf ∧ (14 : Reg) ≠ vf := by decide
theorem witness_SecondDrawAlwaysCollides :
    ∃ s t u : State, (0 : Reg) ≠ vf ∧ (1 : Reg) ≠ vf ∧ exec (.drw 0 1 1) s = .next t ∧ exec (.drw 0 1 1) t = .next u ∧
      ∃ col row, spriteBit s.byteAtI ((s.getV 0).toNat % 64) ((s.getV 1).toNat % 32) (1 : BitVec 4).toNat col row = true :=
  ⟨{ base with i := 0x050 }, _, _, by decide, by decide, rfl, rfl, 0, 0, by decide +kernel⟩
theorem witness_KeySkips : ((base.setV 1 0x1F).getV 1).toNat % 16 = (15 : Key).val := by decide
theorem witness_WaitForKeyTakesLeastOrWaits_down :
    (base.pressKey 15).keyDown 15 = true ∧ ∀ j, j < 15 → (base.pressKey 15).keyDown j = false := by decide
theorem witness_WaitForKeyTakesLeastOrWaits_up : ∀ k, base.keyDown k = false := by decide
theorem witness_WaitForKeyCanWaitForever :
    ∃ s : State, s.loaded = true ∧ s.started = true ∧ s.fault = .none ∧ decode s.fetchWord = .ldVK 3 ∧
      ∀ k, s.keyDown k = false := ⟨{ base.withFetchWord 16 0xF30A with started := true }, by decide⟩
theorem witness_UnassignedIsNoOp : (Instr.unassignedF 1 0x75).isUnassigned = true ∧ (Instr.unassigned0 0).isUnassigned = true := by
  decide
theorem witness_UnassignedSpace :
    UnassignedSpace 0x00E1 ∧ UnassignedSpace 0x5FFF ∧ UnassignedSpace 0x8008 ∧ UnassignedSpace 0x9001 ∧ UnassignedSpace 0xEFFF ∧
      UnassignedSpace 0xF000 := by
  simp [UnassignedSpace]
theorem witness_OnlyCallAndReturnRaise :
    (∃ s : State, s.loaded = true ∧ s.fault = .none ∧ s.sp.val = 16 ∧ decode s.fetchWord = .call 0x345) ∧
      ∃ s : State, s.loaded = true ∧ s.fault = .none ∧ s.sp.val = 0 ∧ decode s.fetchWord = .ret :=
  ⟨⟨{ base.withFetchWord 16 0x2345 with sp := 16 }, by decide⟩, ⟨base.withFetchWord 16 0x00EE, by decide⟩⟩
theorem witness_RaiseCommitsNothing :
    ∃ s t : State, s.fault = .none ∧ step s = .next t ∧ t.fault ≠ .none :=
  ⟨base.withFetchWord 16 0x00EE, _, rfl, step_runs _ rfl rfl, by decide⟩
theorem witness_HaltedMachineStaysHalted :
    ({ base with fault := .stackOverflow } : State).loaded = true ∧ ({ base with fault := .stackOverflow } : State).fault ≠ .none := by
  decide
theorem witness_FaultIsNeverCleared :
    ∃ (s t : State) (r : Response), act .tickTimers s = .next (t, r) ∧ s.fault ≠ .none :=
  ⟨{ base with fault := .stackOverflow }, _, _, rfl, by decide⟩
theorem witness_EveryInstructionKeepsItsFootprint : ∃ s t : State, exec (.ldMemV 15) s = .next t := ⟨base, _, rfl⟩
theorem witness_StepLeavesTheHostsState : ∃ s t : State, step s = .next t ∧ s.dirty = true :=
  ⟨{ base with dirty := true }, _, rfl, rfl⟩
theorem witness_invariant : base.Inv where
  memWf := rfl
  iLow := by decide
  overflowAtCall := by intro h; cases h
  underflowAtRet := by intro h; cases h
  startedLoaded := by intro h; cases h
  faultStarted := by intro h; exact absurd rfl h
theorem witness_StepKeepsTheInvariant : ∃ s t : State, s.Inv ∧ step s = .next t := ⟨base, _, witness_invariant, rfl⟩
theorem witness_EveryReachableState : ∃ s : State, Reachable s ∧ s.loaded = true :=
  ⟨base, .act (a := .load []) (r := .load .ok) .create rfl, rfl⟩
theorem witness_ProgramsCannotReadHostOutputs :
    ∃ s s' t : State, SameToProgram s s' ∧ s ≠ s' ∧ step s = .next t :=
  ⟨base, { base with dirty := true, st := 9, stack := base.stack.set 0 7 }, _,
    ⟨rfl, rfl, rfl, rfl, by intro k hk; exact absurd hk (Nat.not_lt_zero _), rfl, rfl, rfl, rfl, rfl, rfl, rfl⟩,
    fun h => absurd (congrArg State.dirty h) (by decide), rfl⟩
theorem witness_SelfJumpNeverLeaves :
    ∃ s : State, s.loaded = true ∧ s.started = true ∧ s.fault = .none ∧ s.pc.toNat = (0x200 : Addr12).toNat ∧
      decode s.fetchWord = .jp 0x200 := ⟨{ base.withFetchWord 16 0x1200 with started := true }, by decide⟩
theorem witness_KeysChangeOnlyByKeyActions :
    (∀ k, Action.clearDirty ≠ .keyDown k ∧ Action.clearDirty ≠ .keyUp k) ∧ ∃ t r, act .clearDirty base = .next (t, r) :=
  ⟨fun _ => ⟨fun h => (by cases h), fun h => (by cases h)⟩, _, _, rfl⟩
theorem witness_FramebufferReadIsRowMajor : Action.tickTimers ≠ .step ∧ ∃ t r, act .tickTimers base = .next (t, r) :=
  ⟨fun h => (by cases h), _, _, rfl⟩
theorem witness_CreateGivesTheResetState : 0x04F < 0x050 ∧ (0x0A0 ≤ 0x0A0 ∧ 0x0A0 < 0x1000) ∧ 0x0A0 ≤ 0xFFF ∧ 79 < 80 := by decide
theorem witness_StepIsRefusedExactlyBeforeLoad : State.reset.loaded = false ∧ base.loaded = true := by decide
theorem witness_LoadWritesTheRom :
    (List.replicate 0xE01 (1 : Byte)).length > 0xE00 ∧ (List.replicate 0xE00 (1 : Byte)).length ≤ 0xE00 ∧
      0xDFF < (List.replicate 0xE00 (1 : Byte)).length := by
  simp only [List.length_replicate]
  decide
theorem witness_LoadProtocol :
    State.reset.loaded = false ∧ State.reset.started = false ∧ base.loaded = true ∧
      ({ base with started := true } : State).started = true := by decide

end Sys2Proof.Tests
end

section
/-! PROOFS. Laws of `exec` and `step` that the statements on the state share: the two stack instructions by cases, the
frame of every instruction, and what it does to memory and to `fault`. -/

namespace Sys2Proof.Machine

/-! ### 00EE and 2nnn, by cases -/

theorem execRet_cases {s t : State} (h : execRet s = .next t) :
    (s.sp.val = 0 ∧ t = { s with fault := .stackUnderflow }) ∨
      ∃ (sp' : Fin 17) (k : Fin 16), sp'.val = k.val ∧ k.val + 1 = s.sp.val ∧
        t = { s with pc := s.stack.get k, sp := sp' } := by
  by_cases hp : 0 < s.sp.val
  · rw [execRet_pop s hp] at h
    cases h
    exact .inr ⟨_, ⟨s.sp.val - 1, by omega⟩, rfl, Nat.sub_add_cancel hp, rfl⟩
  · rw [execRet_underflow s (by omega)] at h
    cases h
    exact .inl ⟨by omega, rfl⟩

theorem execCall_cases {nnn : Addr12} {s t : State} (h : execCall nnn s = .next t) :
    (s.sp.val = 16 ∧ t = { s with fault := .stackOverflow }) ∨
      ∃ hr : s.sp.val < 16, t = { s with
        stack := s.stack.set s.sp.val (s.pc + 2) hr, sp := ⟨s.sp.val + 1, by omega⟩, pc := zext16 nnn } := by
  by_cases hr : s.sp.val < 16
  · rw [execCall_push nnn s hr] at h
    cases h
    exact .inr ⟨hr, rfl⟩
  · rw [execCall_overflow nnn s (by omega)] at h
    cases h
    exact .inl ⟨by omega, rfl⟩

/-! ### The frame of an instruction -/

/-- An instruction that completes changes PC and what it does after the fetch advance. -/
theorem ChangesOnly.after_advance {may : StatePart → Prop} {s t : State} (h : ChangesOnly may s.advance t) :
    ChangesOnly (fun p => p = .pc ∨ may p) s t := (changesOnly_advance s).trans h

/-- A jump or a skip changes PC alone, whatever else it may change. -/
theorem ChangesOnly.pc_after_advance {may : StatePart → Prop} {s t : State}
    (h : ChangesOnly (fun p => p = .pc) s.advance t) : ChangesOnly (fun p => p = .pc ∨ may p) s t :=
  h.after_advance.mono fun _ hp => .inl (hp.elim id id)

theorem execRet_changesOnly {s t : State} (h : execRet s = .next t) :
    ChangesOnly (fun p => p = .pc ∨ p = .sp ∨ p = .fault) s t := by
  rcases execRet_cases h with ⟨_, rfl⟩ | ⟨sp', k, _, _, rfl⟩
  · exact (changesOnly_fault s _).mono fun _ hp => .inr (.inr hp)
  · exact (changesOnly_pop s _ sp').mono fun _ hp => hp.imp_right .inl

theorem execCall_changesOnly {nnn : Addr12} {s t : State} (h : execCall nnn s = .next t) :
    ChangesOnly (fun p => p = .pc ∨ mayWrite s (.call nnn) p) s t := by
  rcases execCall_cases h with ⟨_, rfl⟩ | ⟨hr, rfl⟩
  · exact (changesOnly_fault s _).mono fun _ hp => .inr (.inr (.inl hp))
  · refine ((changesOnly_push s hr (s.pc + 2) _).trans (changesOnly_jumpTo _ (zext16 nnn))).mono ?_
    rintro p ((rfl | rfl) | rfl)
    · exact .inr (.inl rfl)
    · exact .inr (.inr (.inr ⟨_, rfl, rfl⟩))
    · exact .inl rfl

/-- The footprint of every instruction (10_state R22, R37, 20_memory R56). -/
theorem exec_changesOnly {i : Instr} {s t : State} (h : exec i s = .next t) :
    ChangesOnly (fun p => p = .pc ∨ mayWrite s i p) s t := by
  cases i with
  | ret => exact execRet_changesOnly h
  | call nnn => exact execCall_changesOnly h
  | cls => cases h; exact (changesOnly_clearScreen _).after_advance
  | jp nnn | jpV0 nnn => cases h; exact (changesOnly_jumpTo _ _).pc_after_advance
  | seImm x nn | sneImm x nn | seReg x y | sneReg x y | skp x | sknp x =>
    cases h; exact (changesOnly_skipIf _ _).pc_after_advance
  | ldImm x nn | addImm x nn | ldReg x y | orReg x y | andReg x y | xorReg x y | ldVDt x =>
    cases h; exact (changesOnly_setV _ x _).after_advance
  | addReg x y | sub x y | shr x y | subn x y | shl x y => cases h; exact (changesOnly_setVFlag _ x _ _).after_advance
  | rnd x nn =>
    cases h
    exact ((changesOnly_consumeDraw _).trans (changesOnly_setV _ x _)).after_advance.mono fun _ => .imp_right .symm
  | drw x y n => cases h; exact (changesOnly_drawSprite _ _ _ _ _).after_advance
  | ldI nnn | ldF x => cases h; exact (changesOnly_setI _ _).after_advance
  | addI x => cases h; exact ((changesOnly_setI _ _).trans (changesOnly_setV _ vf _)).after_advance
  | ldVK x => cases h; exact (changesOnly_waitKey _ x).after_advance.mono fun _ hp => hp.elim .inl id
  | ldDtV x => cases h; exact (changesOnly_setDt _ _).after_advance
  | ldStV x => cases h; exact (changesOnly_setSt _ _).after_advance
  | ldB x =>
    cases h
    exact (changesOnly_storeAtI _ _).after_advance.mono fun _ =>
      .imp_right fun ⟨k, a, hk, ha, hp⟩ => ⟨a, k, hk, ha, hp⟩
  | ldMemV x =>
    cases h
    refine (changesOnly_storeAtI _ _).after_advance.mono fun _ => .imp_right ?_
    rintro ⟨k, a, hk, ha, hp⟩
    rw [State.regsUpTo_length] at hk
    exact ⟨a, k, Nat.le_of_lt_succ hk, ha, hp⟩
  | ldVMem x => cases h; exact (changesOnly_loadFromI _ x).after_advance
  | unassigned0 nnn | unassigned5 x y n | unassigned8 x y n | unassigned9 x y n | unassignedE x nn
  | unassignedF x nn => cases h; exact (ChangesOnly.refl _ _).after_advance

/-! ### From a frame to the fields it keeps -/

theorem bool_toNat_injective : Function.Injective Bool.toNat := Function.LeftInverse.injective Bool.ofNat_toNat

theorem ChangesOnly.i_eq {may : StatePart → Prop} {s t : State} (h : ChangesOnly may s t) (hm : ¬ may .i) : t.i = s.i :=
  BitVec.eq_of_toNat_eq (h .i hm)

theorem ChangesOnly.keys_eq {may : StatePart → Prop} {s t : State} (h : ChangesOnly may s t)
    (hm : ∀ k, ¬ may (.key k)) : t.keys = s.keys := by
  ext k hk
  exact bool_toNat_injective (h (.key ⟨k, hk⟩) (hm _))

theorem ChangesOnly.dirty_eq {may : StatePart → Prop} {s t : State} (h : ChangesOnly may s t) (hm : ¬ may .dirty) :
    t.dirty = s.dirty := bool_toNat_injective (h .dirty hm)

theorem ChangesOnly.loaded_eq {may : StatePart → Prop} {s t : State} (h : ChangesOnly may s t) (hm : ¬ may .loaded) :
    t.loaded = s.loaded := bool_toNat_injective (h .loaded hm)

theorem ChangesOnly.started_eq {may : StatePart → Prop} {s t : State} (h : ChangesOnly may s t)
    (hm : ¬ may .started) : t.started = s.started := bool_toNat_injective (h .started hm)

theorem faultCode_injective {e e' : FaultStatus} (h : faultCode e = faultCode e') : e = e' := by
  revert h
  cases e <;> cases e' <;> decide

theorem ChangesOnly.fault_eq {may : StatePart → Prop} {s t : State} (h : ChangesOnly may s t) (hm : ¬ may .fault) :
    t.fault = s.fault := faultCode_injective (BitVec.eq_of_toNat_eq (h .fault hm))

/-! ### The writers of each field -/

theorem not_mayWrite_key (s : State) (i : Instr) (k : Key) : ¬ mayWrite s i (.key k) := by
  cases i <;> simp [mayWrite]

theorem not_mayWrite_loaded (s : State) (i : Instr) : ¬ mayWrite s i .loaded := by
  cases i <;> simp [mayWrite]

theorem not_mayWrite_started (s : State) (i : Instr) : ¬ mayWrite s i .started := by
  cases i <;> simp [mayWrite]

theorem mayWrite_dirty {s : State} {i : Instr} (h : mayWrite s i .dirty) : ∃ x y n, i = .drw x y n := by
  cases i <;> simp_all [mayWrite]

theorem mayWrite_i {s : State} {i : Instr} (h : mayWrite s i .i) :
    (∃ nnn, i = .ldI nnn) ∨ (∃ x, i = .addI x) ∨ ∃ x, i = .ldF x := by
  cases i <;> simp_all [mayWrite]

theorem mayWrite_fault {s : State} {i : Instr} (h : mayWrite s i .fault) : i = .ret ∨ ∃ nnn, i = .call nnn := by
  cases i <;> simp_all [mayWrite]


/-! ### What an instruction does to I, to memory and to the fault status -/

/-- The three writers of I store a value below 0x1000 (10_state R23). -/
theorem exec_i_lt {i : Instr} {s t : State} (h : exec i s = .next t) (hs : s.i.toNat < 0x1000) :
    t.i.toNat < 0x1000 := by
  by_cases hm : mayWrite s i .i
  · obtain ⟨nnn, rfl⟩ | ⟨x, rfl⟩ | ⟨x, rfl⟩ := mayWrite_i hm <;> cases h
    · exact (zext16_toNat nnn).trans_lt nnn.isLt
    · exact (indexSum_toNat _ _).trans_lt (Nat.mod_lt _ (by decide))
    · refine (glyphAddress_toNat _).trans_lt ?_
      omega
  · rwa [(exec_changesOnly h).i_eq (by simpa using hm)]

@[simp] theorem State.waitKey_mem (s : State) (x : Reg) : (s.waitKey x).mem = s.mem := by
  unfold State.waitKey
  split <;> rfl

/-- An instruction's writes to memory are one transfer at I, empty but for Fx33 and Fx55 (20_memory R56). -/
theorem exec_mem {i : Instr} {s t : State} (h : exec i s = .next t) :
    ∃ bytes, t.mem = s.mem.writeBytes s.i.toNat bytes := by
  cases i with
  | ldB x => cases h; exact ⟨_, rfl⟩
  | ldMemV x => cases h; exact ⟨_, rfl⟩
  | ret => obtain ⟨_, rfl⟩ | ⟨_, _, _, _, rfl⟩ := execRet_cases h <;> exact ⟨[], rfl⟩
  | call nnn => obtain ⟨_, rfl⟩ | ⟨_, rfl⟩ := execCall_cases h <;> exact ⟨[], rfl⟩
  | seImm x nn | sneImm x nn | seReg x y | sneReg x y | skp x | sknp x =>
    cases h; exact ⟨[], State.skipIf_mem _ _⟩
  | ldVK x => cases h; exact ⟨[], State.waitKey_mem _ x⟩
  | _ => cases h; exact ⟨[], rfl⟩

/-- Only a 00EE at SP = 0 and a 2nnn at SP = 16 record a fault, and they write nothing else (60_exceptions R220, R222). -/
theorem exec_raises {i : Instr} {s t : State} (h : exec i s = .next t) (hs : s.fault = .none) (ht : t.fault ≠ .none) :
    (i = .ret ∧ s.sp.val = 0 ∧ t = { s with fault := .stackUnderflow }) ∨
      (∃ nnn, i = .call nnn) ∧ s.sp.val = 16 ∧ t = { s with fault := .stackOverflow } := by
  have hm : mayWrite s i .fault := by
    by_contra hm
    exact ht (((exec_changesOnly h).fault_eq (by simpa using hm)).trans hs)
  obtain rfl | ⟨nnn, rfl⟩ := mayWrite_fault hm
  · obtain ⟨h0, rfl⟩ | ⟨_, _, _, _, rfl⟩ := execRet_cases h
    · exact .inl ⟨rfl, h0, rfl⟩
    · exact absurd hs ht
  · obtain ⟨h16, rfl⟩ | ⟨_, rfl⟩ := execCall_cases h
    · exact .inr ⟨⟨nnn, rfl⟩, h16, rfl⟩
    · exact absurd hs ht

/-! ### What an instruction leaves to the host -/

theorem exec_keys {i : Instr} {s t : State} (h : exec i s = .next t) : t.keys = s.keys :=
  (exec_changesOnly h).keys_eq fun k => by simp [not_mayWrite_key s i k]

theorem exec_loaded {i : Instr} {s t : State} (h : exec i s = .next t) : t.loaded = s.loaded :=
  (exec_changesOnly h).loaded_eq (by simp [not_mayWrite_loaded s i])

theorem exec_started {i : Instr} {s t : State} (h : exec i s = .next t) : t.started = s.started :=
  (exec_changesOnly h).started_eq (by simp [not_mayWrite_started s i])

/-- Dxyn alone writes the dirty flag, and it only sets it (43_display R172). -/
theorem exec_dirty {i : Instr} {s t : State} (h : exec i s = .next t) (hs : s.dirty = true) : t.dirty = true := by
  by_cases hm : mayWrite s i .dirty
  · obtain ⟨x, y, n, rfl⟩ := mayWrite_dirty hm
    cases h
    simp [State.drawSprite_dirty, hs]
  · rwa [(exec_changesOnly h).dirty_eq (by simpa using hm)]

theorem step_keys {s t : State} (h : step s = .next t) : t.keys = s.keys := by
  obtain ⟨_, ⟨_, rfl⟩ | ⟨_, hx⟩⟩ := step_cases h
  · rfl
  · exact (exec_keys hx).trans s.markStarted_keys

theorem step_dirty {s t : State} (h : step s = .next t) (hs : s.dirty = true) : t.dirty = true := by
  obtain ⟨_, ⟨_, rfl⟩ | ⟨_, hx⟩⟩ := step_cases h
  · exact hs
  · exact exec_dirty hx hs

theorem step_started {s t : State} (h : step s = .next t) : t.started = true := by
  obtain ⟨_, ⟨_, rfl⟩ | ⟨_, hx⟩⟩ := step_cases h
  · rfl
  · exact exec_started hx

theorem step_loaded {s t : State} (h : step s = .next t) : s.loaded = true ∧ t.loaded = true := by
  obtain ⟨hl, ⟨_, rfl⟩ | ⟨_, hx⟩⟩ := step_cases h
  · exact ⟨hl, hl⟩
  · exact ⟨hl, (exec_loaded hx).trans hl⟩

/-- A recorded fault outlives a step: the machine is halted (60_exceptions R223). -/
theorem step_fault {s t : State} (h : step s = .next t) (hs : s.fault ≠ .none) : t.fault = s.fault := by
  obtain ⟨_, ⟨_, rfl⟩ | ⟨hf, _⟩⟩ := step_cases h
  · rfl
  · exact absurd hf hs

theorem loadRom_fault (s : State) (bytes : List Byte) : (s.loadRom bytes).1.fault = s.fault := by
  unfold State.loadRom
  split <;> rfl

/-! ### The invariant -/

theorem create_inv : create.Inv where
  memWf := rfl
  iLow := by decide
  overflowAtCall := nofun
  underflowAtRet := nofun
  startedLoaded := nofun
  faultStarted h := absurd rfl h

/-- Marking a loaded state as started keeps the invariant. -/
theorem State.Inv.markStarted {s : State} (h : s.Inv) (hl : s.loaded = true) : s.markStarted.Inv where
  memWf := h.memWf
  iLow := h.iLow
  overflowAtCall := h.overflowAtCall
  underflowAtRet := h.underflowAtRet
  startedLoaded _ := hl
  faultStarted _ := rfl

/-- The instruction fetched from a started state without a fault keeps the invariant: a raise records its fault at that
very instruction, and every other completion records none. -/
theorem exec_inv {s t : State} (hs : s.Inv) (hf : s.fault = .none) (hst : s.started = true)
    (h : exec (decode s.fetchWord) s = .next t) : t.Inv where
  memWf := by
    obtain ⟨bytes, hb⟩ := exec_mem h
    rw [hb]
    exact Memory.wf_writeBytes _ bytes hs.memWf
  iLow := exec_i_lt h hs.iLow
  overflowAtCall ht := by
    obtain ⟨_, _, rfl⟩ | ⟨hcall, h16, rfl⟩ := exec_raises h hf (by simp [ht])
    · cases ht
    · exact ⟨h16, hcall⟩
  underflowAtRet ht := by
    obtain ⟨hret, h0, rfl⟩ | ⟨_, _, rfl⟩ := exec_raises h hf (by simp [ht])
    · exact ⟨h0, hret⟩
    · cases ht
  startedLoaded _ := (exec_loaded h).trans (hs.startedLoaded hst)
  faultStarted _ := (exec_started h).trans hst

theorem step_inv {s t : State} (hs : s.Inv) (h : step s = .next t) : t.Inv := by
  obtain ⟨hl, ⟨_, rfl⟩ | ⟨hf, hx⟩⟩ := step_cases h
  · exact hs.markStarted hl
  · exact exec_inv (hs.markStarted hl) hf rfl hx

end Sys2Proof.Machine
end

section
/-! PROOFS. What a program cannot read (10_state R27, R28, R30, R35, R38): each operand form reads alike on two states that
are `SameToProgram`, each update keeps them so, and so does every instruction. -/

namespace Sys2Proof.Machine

/-! ### Operands read alike -/

section Operands
variable {s s' : State} (h : SameToProgram s s')
include h

theorem SameToProgram.getV (x : Reg) : s.getV x = s'.getV x := congrArg (Vector.get · x) h.v

theorem SameToProgram.keyDown (k : Key) : s.keyDown k = s'.keyDown k := congrArg (Vector.get · k) h.keys

theorem SameToProgram.leastKeyDown : s.leastKeyDown = s'.leastKeyDown := by
  simp only [State.leastKeyDown, h.keyDown]

theorem SameToProgram.byteAtI : s.byteAtI = s'.byteAtI := by
  funext k
  simp only [State.byteAtI, h.mem, h.i]

theorem SameToProgram.fetchWord : s.fetchWord = s'.fetchWord := by
  simp only [State.fetchWord, h.mem, h.pc]

theorem SameToProgram.drawnByte : s.drawnByte = s'.drawnByte := congrArg Config.drawByte h.draws

theorem SameToProgram.regsUpTo (x : Reg) : s.regsUpTo x = s'.regsUpTo x := by
  simp only [State.regsUpTo, h.v]

theorem SameToProgram.loadedRegs (x : Reg) : s.loadedRegs x = s'.loadedRegs x := by
  simp only [State.loadedRegs, h.byteAtI, h.getV]

end Operands

/-! ### Updates keep the states alike -/

section Updates
variable {s s' : State} (h : SameToProgram s s')
include h

theorem SameToProgram.advance : SameToProgram s.advance s'.advance := { h with pc := congrArg (· + 2) h.pc }

theorem SameToProgram.rollback : SameToProgram s.rollback s'.rollback := { h with pc := congrArg (· - 2) h.pc }

theorem SameToProgram.jumpTo (a : Half) : SameToProgram (s.jumpTo a) (s'.jumpTo a) := { h with pc := rfl }

theorem SameToProgram.skipIf {c c' : Bool} (hc : c = c') : SameToProgram (s.skipIf c) (s'.skipIf c') := by
  subst hc
  cases c
  · exact h
  · exact h.advance

theorem SameToProgram.withRegs {v v' : Vector Byte 16} (hv : v = v') :
    SameToProgram { s with v := v } { s' with v := v' } := { h with v := hv }

theorem SameToProgram.setV (x : Reg) {b b' : Byte} (hb : b = b') : SameToProgram (s.setV x b) (s'.setV x b') :=
  h.withRegs (by rw [h.v, hb])

theorem SameToProgram.setVFlag (x : Reg) {b b' f f' : Byte} (hb : b = b') (hf : f = f') :
    SameToProgram (s.setVFlag x b f) (s'.setVFlag x b' f') := (h.setV x hb).setV vf hf

theorem SameToProgram.setI {a a' : Half} (ha : a = a') : SameToProgram (s.setI a) (s'.setI a') := { h with i := ha }

theorem SameToProgram.consumeDraw : SameToProgram s.consumeDraw s'.consumeDraw :=
  { h with draws := congrArg (· + 1) h.draws }

theorem SameToProgram.storeAtI {l l' : List Byte} (hl : l = l') : SameToProgram (s.storeAtI l) (s'.storeAtI l') :=
  { h with mem := by simp only [State.storeAtI_mem, h.mem, h.i, hl] }

theorem SameToProgram.loadFromI (x : Reg) : SameToProgram (s.loadFromI x) (s'.loadFromI x) :=
  h.withRegs (h.loadedRegs x)

theorem SameToProgram.setDt {b b' : Byte} (hb : b = b') : SameToProgram (s.setDt b) (s'.setDt b') :=
  { h with dt := hb }

/-- ST may differ, so what is written to it may differ too. -/
theorem SameToProgram.setSt (b b' : Byte) : SameToProgram (s.setSt b) (s'.setSt b') := { h with }

theorem SameToProgram.clearScreen (c : Bool) : SameToProgram (State.clearScreen c s) (State.clearScreen c s') :=
  { h with fb := rfl }

theorem SameToProgram.drawSprite (w : Nat) {a a' b b' : Byte} (ha : a = a') (hb : b = b') (n : Nat) :
    SameToProgram (State.drawSprite w a b n s) (State.drawSprite w a' b' n s') := by
  subst ha hb
  exact { h with
    v := by simp only [State.drawSprite, State.setV_v, h.v, h.fb, h.byteAtI]
    fb := by simp only [State.drawSprite, State.setV_fb, h.fb, h.byteAtI] }

theorem SameToProgram.waitKey (x : Reg) : SameToProgram (s.waitKey x) (s'.waitKey x) := by
  unfold State.waitKey
  rw [← h.leastKeyDown]
  split
  · exact h.setV x rfl
  · exact h.rollback

theorem SameToProgram.markStarted : SameToProgram s.markStarted s'.markStarted := { h with }

theorem SameToProgram.setFault (e : FaultStatus) : SameToProgram { s with fault := e } { s' with fault := e } :=
  { h with fault := rfl }

end Updates

/-! ### Instructions keep the states alike -/

/-- Two answers that no program can tell apart: when the first is a next state, so is the second, and the two states are
`SameToProgram`. -/
def SameAnswer (r r' : Result) : Prop := ∀ t, r = .next t → ∃ t', r' = .next t' ∧ SameToProgram t t'

theorem sameAnswer_next {t t' : State} (h : SameToProgram t t') : SameAnswer (.next t) (.next t') := by
  intro u hu
  cases hu
  exact ⟨t', rfl, h⟩

theorem sameAnswer_execRet {s s' : State} (h : SameToProgram s s') : SameAnswer (execRet s) (execRet s') := by
  by_cases hp : 0 < s.sp.val
  · rw [execRet_pop s hp, execRet_pop s' (h.sp ▸ hp)]
    refine sameAnswer_next { h with pc := ?_, sp := ?_, stack := ?_ }
    · simpa only [h.sp] using h.stack ⟨s.sp.val - 1, by omega⟩ (Nat.sub_lt hp Nat.one_pos)
    · simp only [h.sp]
    · exact fun k hk => h.stack k (hk.trans_le (Nat.sub_le _ _))
  · have h0 : s.sp.val = 0 := by omega
    rw [execRet_underflow s h0, execRet_underflow s' (h.sp ▸ h0)]
    exact sameAnswer_next (h.setFault _)

theorem sameAnswer_execCall (nnn : Addr12) {s s' : State} (h : SameToProgram s s') :
    SameAnswer (execCall nnn s) (execCall nnn s') := by
  by_cases hr : s.sp.val < 16
  · rw [execCall_push nnn s hr, execCall_push nnn s' (h.sp ▸ hr)]
    refine sameAnswer_next { h with pc := rfl, sp := ?_, stack := ?_ }
    · simp only [h.sp]
    · intro k hk
      simp only [Vector.get_eq_getElem, Vector.getElem_set, ← h.sp, h.pc]
      split
      · rfl
      · exact h.stack k (by simp at hk; omega)
  · have h16 : s.sp.val = 16 := by omega
    rw [execCall_overflow nnn s h16, execCall_overflow nnn s' (h.sp ▸ h16)]
    exact sameAnswer_next (h.setFault _)

/-- No instruction reads the dirty flag, ST, `started` or a stack entry at or above SP. -/
theorem sameAnswer_exec (i : Instr) {s s' : State} (h : SameToProgram s s') : SameAnswer (exec i s) (exec i s') := by
  have ha := h.advance
  cases i with
  | ret => exact sameAnswer_execRet h
  | call nnn => exact sameAnswer_execCall nnn h
  | cls => exact sameAnswer_next (ha.clearScreen _)
  | jp nnn | jpV0 nnn => exact sameAnswer_next (ha.jumpTo _)
  | seImm x nn | sneImm x nn => exact sameAnswer_next (ha.skipIf (by rw [ha.getV x]))
  | seReg x y | sneReg x y => exact sameAnswer_next (ha.skipIf (by rw [ha.getV x, ha.getV y]))
  | skp x | sknp x => exact sameAnswer_next (ha.skipIf (by rw [ha.getV x, ha.keyDown]))
  | ldImm x nn => exact sameAnswer_next (ha.setV x rfl)
  | addImm x nn => exact sameAnswer_next (ha.setV x (by rw [ha.getV x]))
  | ldReg x y => exact sameAnswer_next (ha.setV x (ha.getV y))
  | orReg x y | andReg x y | xorReg x y => exact sameAnswer_next (ha.setV x (by rw [ha.getV x, ha.getV y]))
  | addReg x y | sub x y | subn x y =>
    exact sameAnswer_next (ha.setVFlag x (by rw [ha.getV x, ha.getV y]) (by rw [ha.getV x, ha.getV y]))
  | shr x y | shl x y => exact sameAnswer_next (ha.setVFlag x (by rw [ha.getV x]) (by rw [ha.getV x]))
  | rnd x nn => exact sameAnswer_next (ha.consumeDraw.setV x (by rw [ha.drawnByte]))
  | drw x y n => exact sameAnswer_next (ha.drawSprite _ (ha.getV x) (ha.getV y) _)
  | ldI nnn => exact sameAnswer_next (ha.setI rfl)
  | addI x => exact sameAnswer_next ((ha.setI (by rw [ha.i, ha.getV x])).setV vf (by rw [ha.i, ha.getV x]))
  | ldF x => exact sameAnswer_next (ha.setI (by rw [ha.getV x]))
  | ldB x => exact sameAnswer_next (ha.storeAtI (by rw [ha.getV x]))
  | ldMemV x => exact sameAnswer_next (ha.storeAtI (ha.regsUpTo x))
  | ldVMem x => exact sameAnswer_next (ha.loadFromI x)
  | ldVDt x => exact sameAnswer_next (ha.setV x ha.dt)
  | ldVK x => exact sameAnswer_next (ha.waitKey x)
  | ldDtV x => exact sameAnswer_next (ha.setDt (ha.getV x))
  | ldStV x => exact sameAnswer_next (ha.setSt _ _)
  | unassigned0 nnn | unassigned5 x y n | unassigned8 x y n | unassigned9 x y n | unassignedE x nn
  | unassignedF x nn => exact sameAnswer_next ha

theorem sameAnswer_step {s s' : State} (h : SameToProgram s s') : SameAnswer (step s) (step s') := by
  intro t ht
  obtain ⟨hl, ⟨hf, rfl⟩ | ⟨hf, hx⟩⟩ := step_cases ht
  · exact ⟨_, step_halted s' (h.loaded ▸ hl) (h.fault ▸ hf), h.markStarted⟩
  · rw [step_runs s' (h.loaded ▸ hl) (h.fault ▸ hf), ← h.fetchWord]
    exact sameAnswer_exec _ h.markStarted t hx

end Sys2Proof.Machine
end

section
/-! PROOFS. The statements of the state: the invariant, what a program can read, and who writes what (10_state). -/

open Sys2Proof Sys2Proof.Machine

/-- Settles O43: a halted machine changes only `started`, and the instruction at PC keeps every clause. -/
theorem stepKeepsTheInvariant : Obligations.StepKeepsTheInvariant := fun _ _ => step_inv

/-- Settles O45: both states fetch the same word, and what it decodes to keeps them alike. -/
theorem programsCannotReadHostOutputs : Obligations.ProgramsCannotReadHostOutputs :=
  fun _ _ t h => sameAnswer_step h t

/-- Settles O39: of the transactions only a step could write `fault`, and it finds the machine halted. -/
theorem faultIsNeverCleared : Obligations.FaultIsNeverCleared := by
  intro a s t r h hs
  obtain ⟨bytes, _, _, rfl⟩ | ⟨_, hstep⟩ | rfl | ⟨k, rfl⟩ | ⟨k, rfl⟩ | rfl | rfl := act_cases h
  · exact loadRom_fault s bytes
  · exact step_fault hstep hs
  all_goals rfl

/-- Settles O40, by the constructors of `Instr`. -/
theorem everyInstructionKeepsItsFootprint : Obligations.EveryInstructionKeepsItsFootprint :=
  fun _ _ _ => exec_changesOnly

/-- Settles O41, from the footprint of the instruction that the step runs. -/
theorem stepLeavesTheHostsState : Obligations.StepLeavesTheHostsState := fun _ _ h =>
  ⟨step_keys h, (step_loaded h).2.trans (step_loaded h).1.symm, step_started h, step_dirty h⟩

/-- Settles O42, clause by clause. -/
theorem createMeetsTheInvariant : Obligations.CreateMeetsTheInvariant := create_inv
end

section
/-! PROOFS. The decoder reads back what the encoder writes (30_encoding R74, R75, R78), family by family. -/

namespace Sys2Proof

/-! ### The unassigned word of each family -/

theorem decode0_unassigned {nnn : Addr12} (h : (Instr.unassigned0 nnn).wellFormed = true) :
    decode0 nnn = .unassigned0 nnn := by
  simp_all [Instr.wellFormed, decode0]

theorem decode5_unassigned {x y : Reg} {n : BitVec 4} (h : (Instr.unassigned5 x y n).wellFormed = true) :
    decode5 x y n = .unassigned5 x y n := by
  simp_all [Instr.wellFormed, decode5]

theorem decode8_unassigned {x y : Reg} {n : BitVec 4} (h : (Instr.unassigned8 x y n).wellFormed = true) :
    decode8 x y n = .unassigned8 x y n := by
  simp only [Instr.wellFormed, Bool.or_eq_true, beq_iff_eq] at h
  rcases h with (((((rfl | rfl) | rfl) | rfl) | rfl) | rfl) | rfl <;> rfl

theorem decode9_unassigned {x y : Reg} {n : BitVec 4} (h : (Instr.unassigned9 x y n).wellFormed = true) :
    decode9 x y n = .unassigned9 x y n := by
  simp_all [Instr.wellFormed, decode9]

theorem decodeE_unassigned {x : Reg} {nn : Byte} (h : (Instr.unassignedE x nn).wellFormed = true) :
    decodeE x nn = .unassignedE x nn := by
  simp_all [Instr.wellFormed, decodeE]

theorem decodeF_unassigned {x : Reg} {nn : Byte} (h : (Instr.unassignedF x nn).wellFormed = true) :
    decodeF x nn = .unassignedF x nn := by
  simp_all [Instr.wellFormed, decodeF]

/-! ### Every well-formed instruction -/

/-- The top nibble selects the family, and the family's own field the instruction in it. -/
theorem decode_encode {i : Instr} (h : i.wellFormed = true) : decode (encode i) = i := by
  cases i with
  | cls | ret => rfl
  | unassigned0 nnn => simp [encode, decode, decode0_unassigned h]
  | unassigned5 x y n => simp [encode, decode, decode5_unassigned h]
  | unassigned8 x y n => simp [encode, decode, decode8_unassigned h]
  | unassigned9 x y n => simp [encode, decode, decode9_unassigned h]
  | unassignedE x nn => simp [encode, decode, decodeE_unassigned h]
  | unassignedF x nn => simp [encode, decode, decodeF_unassigned h]
  | jp nnn | call nnn | ldI nnn | jpV0 nnn => simp [encode, decode]
  | seImm x nn | sneImm x nn | ldImm x nn | addImm x nn | rnd x nn => simp [encode, decode]
  | drw x y n => simp [encode, decode]
  | seReg x y => simp [encode, decode, decode5]
  | ldReg x y | orReg x y | andReg x y | xorReg x y | addReg x y | sub x y | shr x y | subn x y | shl x y =>
    simp [encode, decode, decode8]
  | sneReg x y => simp [encode, decode, decode9]
  | skp x | sknp x => simp [encode, decode, decodeE]
  | ldVDt x | ldVK x | ldDtV x | ldStV x | addI x | ldF x | ldB x | ldMemV x | ldVMem x =>
    simp [encode, decode, decodeF]

end Sys2Proof
end

section
/-! PROOFS. Memory as code (20_memory R54, R55, R62): a fetch reads the bytes that the last transfer at PC wrote. -/

namespace Sys2Proof.Machine

/-- A fetch where a transfer of at least two bytes began reads its first two, also where the addresses wrap. -/
theorem State.fetchWord_of_written {s : State} {m : Memory} {bytes : List Byte}
    (hm : s.mem = m.writeBytes s.pc.toNat bytes) (hlo : 1 < bytes.length) (hhi : bytes.length ≤ 4096) :
    s.fetchWord = wordOfBytes bytes[0] bytes[1] := by
  rw [State.fetchWord, hm]
  exact congrArg₂ wordOfBytes (Memory.read_writeBytes bytes m _ 0 hhi (by omega))
    (Memory.read_writeBytes bytes m _ 1 hhi hlo)

/-- An instruction stored at PC is the word that a fetch reads. -/
theorem State.fetchWord_of_encodeBytes {s : State} {m : Memory} {i : Instr}
    (hm : s.mem = m.writeBytes s.pc.toNat (encodeBytes i)) : s.fetchWord = encode i := by
  rw [State.fetchWord_of_written hm (by simp [encodeBytes]) (by simp [encodeBytes])]
  exact wordOfBytes_bytes (encode i)

/-- A step runs the well-formed instruction whose encoding it fetches (30_encoding R73). -/
theorem step_of_fetchWord_eq_encode {s : State} {i : Instr} (hl : s.loaded = true) (hf : s.fault = .none)
    (hi : i.wellFormed = true) (hw : s.fetchWord = encode i) : step s = exec i s.markStarted := by
  rw [step_runs s hl hf, hw, decode_encode hi]

/-- The word where V0 to V[x] were stored is V0 then V1 (42_index_memory R154). -/
theorem State.fetchWord_of_regsUpTo {s u : State} {m : Memory} {x : Reg} (hx : 1 ≤ x.val)
    (hm : s.mem = m.writeBytes s.pc.toNat (u.regsUpTo x)) : s.fetchWord = wordOfBytes (u.getV 0) (u.getV 1) := by
  have hlen := u.regsUpTo_length x
  rw [State.fetchWord_of_written hm (by omega) (by omega)]
  exact congrArg₂ wordOfBytes (u.regsUpTo_getElem x 0 _) (u.regsUpTo_getElem x 1 _)

end Sys2Proof.Machine
end

section
/-! PROOFS. The invariant along a run (20_memory R59): every transaction keeps it. -/

namespace Sys2Proof.Machine

section HostActions

variable {s : State} (h : s.Inv)
include h

theorem State.Inv.tickTimers : s.tickTimers.Inv := { h with }

theorem State.Inv.pressKey (k : Key) : (s.pressKey k).Inv := { h with }

theorem State.Inv.releaseKey (k : Key) : (s.releaseKey k).Inv := { h with }

theorem State.Inv.clearDirty : s.clearDirty.Inv := { h with }

/-- Only a step can fault, so that no fault is recorded while a load is admitted (70_reset_and_hazards R262). -/
theorem State.Inv.fault_of_loadAdmitted (hl : s.loadAdmitted = true) : s.fault = .none := by
  by_contra hf
  simp [State.loadAdmitted, h.faultStarted hf] at hl

/-- An admitted load rewrites memory under PC, which is safe because no fault is recorded yet. -/
theorem State.Inv.loadRom (hl : s.loadAdmitted = true) (bytes : List Byte) : (s.loadRom bytes).1.Inv := by
  have hf := h.fault_of_loadAdmitted hl
  rcases Nat.lt_or_ge 0xE00 bytes.length with hlen | hlen
  · rwa [loadRom_too_large s bytes hlen]
  · rw [loadRom_fits s bytes hlen]
    exact { h with
      memWf := Memory.wf_writeBytes _ bytes h.memWf
      overflowAtCall := fun ho => absurd (hf.symm.trans ho) nofun
      underflowAtRet := fun hu => absurd (hf.symm.trans hu) nofun
      startedLoaded := fun _ => rfl }

end HostActions

/-- Every transaction that the protocol admits keeps the invariant. -/
theorem act_inv {a : Action} {s t : State} {r : Response} (hs : s.Inv) (h : act a s = .next (t, r)) : t.Inv := by
  obtain ⟨bytes, _, hl, rfl⟩ | ⟨_, hstep⟩ | rfl | ⟨k, rfl⟩ | ⟨k, rfl⟩ | rfl | rfl := act_cases h
  · exact hs.loadRom hl bytes
  · exact step_inv hs hstep
  · exact hs.tickTimers
  · exact hs.pressKey k
  · exact hs.releaseKey k
  · exact hs.clearDirty
  · exact hs

end Sys2Proof.Machine
end

section
/-! PROOFS. The statements of memory (20_memory): stored code is run, and the invariant holds along every run. -/

open Sys2Proof Sys2Proof.Machine

/-- Settles O6: the fetch reads the stored word, and decoding it gives the instruction back. -/
theorem stepRunsStoredEncoding : Obligations.StepRunsStoredEncoding :=
  fun _ _ hl hf hi => step_of_fetchWord_eq_encode hl hf hi (State.fetchWord_of_encodeBytes rfl)

/-- Settles O7: Fx55 leaves I, so that a fetch at I begins where its transfer began. -/
theorem storedBytesAreFetched : Obligations.StoredBytesAreFetched := by
  intro x s hx
  refine ⟨_, rfl, ?_⟩
  rw [State.fetchWord_of_regsUpTo hx rfl, wordOfBytes_toNat]
  rfl

/-- Settles O44, by induction on the run. -/
theorem everyReachableStateMeetsTheInvariant : Obligations.EveryReachableStateMeetsTheInvariant := by
  intro s hs
  induction hs with
  | create => exact create_inv
  | act _ h ih => exact act_inv ih h
end

section
/-! PROOFS. The encoder gives back every word that the decoder reads (30_encoding R74, R78, R84), format by format, and
the unassigned instructions are the table of R83. -/

namespace Sys2Proof

open Machine

/-- Every word has the format that its top nibble selects (R74, R80, R83); the nibbles of the families that are decoded by a
second field come first. -/
theorem word_has_format (w : Half) :
    (∃ op ∈ [0x0, 0x1, 0x2, 0xA, 0xB], ∃ nnn, w = wordNNN op nnn) ∨
      (∃ op ∈ [0xE, 0xF, 0x3, 0x4, 0x6, 0x7, 0xC], ∃ x nn, w = wordXNN op x nn) ∨
      (∃ op ∈ [0x5, 0x8, 0x9, 0xD], ∃ x y n, w = wordXYN op x y n) := by
  have hop : ∀ op : BitVec 4, op ∈ [0x0, 0x1, 0x2, 0xA, 0xB] ∨ op ∈ [0xE, 0xF, 0x3, 0x4, 0x6, 0x7, 0xC] ∨
      op ∈ [0x5, 0x8, 0x9, 0xD] := by decide
  rcases hop (opField w) with h | h | h
  · exact .inl ⟨_, h, _, (wordNNN_fields w).symm⟩
  · exact .inr (.inl ⟨_, h, _, _, (wordXNN_fields w).symm⟩)
  · exact .inr (.inr ⟨_, h, _, _, _, (wordXYN_fields w).symm⟩)

/-- The instruction is one that stands for the word. -/
def Instr.IsTermOf (i : Instr) (w : Half) : Prop := i.wellFormed = true ∧ encode i = w

/-! ### The families that the decoder reads by a second field -/

theorem decode0_isTermOf (nnn : Addr12) : (decode0 nnn).IsTermOf (wordNNN 0x0 nnn) := by
  unfold decode0
  split_ifs with hcls hret
  · exact hcls ▸ ⟨rfl, rfl⟩
  · exact hret ▸ ⟨rfl, rfl⟩
  · simp_all [Instr.IsTermOf, Instr.wellFormed, encode]

theorem decode5_isTermOf (x y : Reg) (n : BitVec 4) : (decode5 x y n).IsTermOf (wordXYN 0x5 x y n) := by
  unfold decode5
  split_ifs <;> simp_all [Instr.IsTermOf, Instr.wellFormed, encode]

theorem decode8_isTermOf (x y : Reg) (n : BitVec 4) : (decode8 x y n).IsTermOf (wordXYN 0x8 x y n) := by
  have hn : n ∈ [0x0, 0x1, 0x2, 0x3, 0x4, 0x5, 0x6, 0x7, 0xE] ∨ (Instr.unassigned8 x y n).wellFormed = true := by
    simp only [Instr.wellFormed]
    decide +revert
  rcases hn with h | h
  · simp only [List.mem_cons, List.not_mem_nil, or_false] at h
    rcases h with rfl | rfl | rfl | rfl | rfl | rfl | rfl | rfl | rfl <;> exact ⟨rfl, rfl⟩
  · rw [decode8_unassigned h]
    exact ⟨h, rfl⟩

theorem decode9_isTermOf (x y : Reg) (n : BitVec 4) : (decode9 x y n).IsTermOf (wordXYN 0x9 x y n) := by
  unfold decode9
  split_ifs <;> simp_all [Instr.IsTermOf, Instr.wellFormed, encode]

theorem decodeE_isTermOf (x : Reg) (nn : Byte) : (decodeE x nn).IsTermOf (wordXNN 0xE x nn) := by
  unfold decodeE
  split_ifs <;> simp_all [Instr.IsTermOf, Instr.wellFormed, encode]

theorem decodeF_isTermOf (x : Reg) (nn : Byte) : (decodeF x nn).IsTermOf (wordXNN 0xF x nn) := by
  unfold decodeF
  split_ifs <;> simp_all [Instr.IsTermOf, Instr.wellFormed, encode]

/-! ### Every word -/

/-- Each format is decoded by its families, and a family without a second field has one instruction. -/
theorem decode_isTermOf (w : Half) : (decode w).IsTermOf w := by
  obtain ⟨op, hop, nnn, rfl⟩ | ⟨op, hop, x, nn, rfl⟩ | ⟨op, hop, x, y, n, rfl⟩ := word_has_format w <;>
      simp only [List.mem_cons, List.not_mem_nil, or_false] at hop
  · rcases hop with rfl | rfl | rfl | rfl | rfl
    · simpa [decode] using decode0_isTermOf nnn
    all_goals simp [decode, Instr.IsTermOf, Instr.wellFormed, encode]
  · rcases hop with rfl | rfl | rfl | rfl | rfl | rfl | rfl
    · simpa [decode] using decodeE_isTermOf x nn
    · simpa [decode] using decodeF_isTermOf x nn
    all_goals simp [decode, Instr.IsTermOf, Instr.wellFormed, encode]
  · rcases hop with rfl | rfl | rfl | rfl
    · simpa [decode] using decode5_isTermOf x y n
    · simpa [decode] using decode8_isTermOf x y n
    · simpa [decode] using decode9_isTermOf x y n
    · simp [decode, Instr.IsTermOf, Instr.wellFormed, encode]

/-! ### The unassigned words -/

/-- The table of R83 on the fields of a word: the free bits are those that the well-formedness of a term checks. -/
theorem unassignedSpace_iff_fields (w : Half) : UnassignedSpace w.toNat ↔
    (opField w = 0x0 ∧ nnnField w ≠ 0x0E0 ∧ nnnField w ≠ 0x0EE) ∨
    (opField w = 0x5 ∧ nField w ≠ 0) ∨
    (opField w = 0x8 ∧ nField w ∈ [0x8, 0x9, 0xA, 0xB, 0xC, 0xD, 0xF]) ∨
    (opField w = 0x9 ∧ nField w ≠ 0) ∨
    (opField w = 0xE ∧ nnField w ∉ [0x9E, 0xA1]) ∨
    (opField w = 0xF ∧ nnField w ∉ [0x07, 0x0A, 0x15, 0x18, 0x1E, 0x29, 0x33, 0x55, 0x65]) := by
  have hop : (opField w).toNat = w.toNat / 4096 := by rw [opField_toNat]; omega
  have hnnn : w.toNat / 4096 = 0 → (nnnField w).toNat = w.toNat := by rw [nnnField_toNat]; omega
  simp only [UnassignedSpace, ← BitVec.toNat_inj, hop]
  refine or_congr (and_congr_right fun h0 => ?_) ?_
  · simp [← BitVec.toNat_inj, hnnn h0]
  · simp [← BitVec.toNat_inj, nField_toNat, nnField_toNat]

/-- The encodings in the table of R83 are those of the six unassigned constructors. -/
theorem isUnassigned_iff_unassignedSpace {i : Instr} (h : i.wellFormed = true) :
    i.isUnassigned = true ↔ UnassignedSpace (encode i).toNat := by
  rw [unassignedSpace_iff_fields]
  cases i with
  | cls | ret => simp [Instr.isUnassigned, encode, opField, nnnField]
  | unassigned0 | unassigned5 | unassigned8 | unassigned9 | unassignedE | unassignedF =>
    simp_all [Instr.isUnassigned, Instr.wellFormed, encode, or_assoc]
  | _ => simp [Instr.isUnassigned, encode]

end Sys2Proof
end

section
/-! PROOFS. The statements of the decoder and the encoder (30_encoding): each gives back what the other reads, the
unassigned words are the residue, and a step runs what it decodes. -/

open Sys2Proof Sys2Proof.Machine

/-- Settles O2: the decoder reads each constructor's fields back from its format. -/
theorem decodeOfEncode : Obligations.DecodeOfEncode := fun _ => decode_encode

/-- Settles O3: the word has the format of its top nibble, and each family re-encodes what it decoded. -/
theorem encodeOfDecode : Obligations.EncodeOfDecode := decode_isTermOf

/-- Settles O4: a word is the encoding of the well-formed instruction it decodes to. -/
theorem unassignedWordsAreTheResidue : Obligations.UnassignedWordsAreTheResidue := by
  intro w
  obtain ⟨hwf, henc⟩ := decode_isTermOf w
  rw [isUnassigned_iff_unassignedSpace hwf, henc]

/-- Settles O1, by running the decoder on the eight words. -/
theorem sampleWordsDecode : Obligations.SampleWordsDecode := by
  unfold Obligations.SampleWordsDecode
  decide

/-- Settles O5: decoding the two bytes at PC is decoding the word that the step fetches. -/
theorem stepRunsDecodedInstruction : Obligations.StepRunsDecodedInstruction := by
  intro s i hl hf h
  rw [decodeBytes_cons] at h
  obtain rfl : decode s.fetchWord = i := congrArg Prod.fst (Except.ok.inj h)
  exact step_runs s hl hf
end

section
/-! PROOFS. Control flow (40_flow): what a skip adds to PC, what 2nnn pushes, and what 00EE pops. -/

namespace Sys2Proof.Machine

/-! ### Jumps and skips -/

/-- An instruction that after its fetch advance changes PC alone changes PC alone. -/
theorem ChangesOnly.pc_of_advance {s t : State} (h : ChangesOnly (fun p => p = .pc) s.advance t) :
    ChangesOnly (fun p => p = .pc) s t := h.after_advance.mono fun _ => or_self_iff.mp

/-- Every jump to nnn (R103, R104). -/
theorem exec_jumps {i : Instr} {s : State} {nnn : Addr12} (h : exec i s = .next (s.advance.jumpTo (zext16 nnn))) :
    ∃ t, exec i s = .next t ∧ t.pc.toNat = nnn.toNat ∧ ChangesOnly (fun p => p = .pc) s t :=
  ⟨_, h, zext16_toNat nnn, (changesOnly_jumpTo _ _).pc_of_advance⟩

/-- The skip's addition to PC and that of the fetch advance are one addition modulo 2^16. -/
theorem State.skipIf_advance_pc_toNat (s : State) {c : Bool} {P : Prop} [Decidable P] (hc : c = true ↔ P) :
    (s.advance.skipIf c).pc.toNat = (s.pc.toNat + if P then 4 else 2) % 0x10000 := by
  rw [State.skipIf_pc, State.advance_pc]
  by_cases hP : P
  · rw [if_pos (hc.mpr hP), if_pos hP, BitVec.add_assoc]
    exact BitVec.toNat_add s.pc 4
  · rw [if_neg (hc.not.mpr hP), if_neg hP]
    exact BitVec.toNat_add s.pc 2

/-- Every skip, whatever its condition (R105 to R108). -/
theorem exec_skips {i : Instr} {s : State} {c : Bool} {P : Prop} [Decidable P]
    (h : exec i s = .next (s.advance.skipIf c)) (hc : c = true ↔ P) :
    ∃ t, exec i s = .next t ∧ t.pc.toNat = (s.pc.toNat + if P then 4 else 2) % 0x10000 ∧
      ChangesOnly (fun p => p = .pc) s t :=
  ⟨_, h, s.skipIf_advance_pc_toNat hc, (changesOnly_skipIf _ _).pc_of_advance⟩

theorem beq_iff_toNat_eq (a b : Byte) : (a == b) = true ↔ a.toNat = b.toNat := beq_iff_eq.trans BitVec.toNat_inj.symm

theorem bne_iff_toNat_ne (a b : Byte) : (a != b) = true ↔ a.toNat ≠ b.toNat := bne_iff_ne.trans BitVec.toNat_inj.not.symm

/-! ### Call and return -/

/-- 2nnn with room on the stack (R102). -/
theorem exec_call_pushes (nnn : Addr12) (s : State) (h : s.sp.val < 16) :
    ∃ t, exec (.call nnn) s = .next t ∧ t.pc.toNat = nnn.toNat ∧ t.sp.val = s.sp.val + 1 ∧
      (t.stack.get ⟨s.sp.val, h⟩).toNat = (s.pc.toNat + 2) % 0x10000 ∧
      ChangesOnly (fun p => p = .pc ∨ p = .sp ∨ p = .stack ⟨s.sp.val, h⟩) s t := by
  refine ⟨_, execCall_push nnn s h, zext16_toNat nnn, rfl, ?_, ?_⟩
  · rw [Vector.get_eq_getElem, Vector.getElem_set_self]
    exact BitVec.toNat_add s.pc 2
  · exact ((changesOnly_push s h (s.pc + 2) _).trans (changesOnly_jumpTo _ (zext16 nnn))).mono fun _ => Or.symm

/-- 00EE with k the index of the top entry of the stack (R101). -/
theorem exec_ret_pops (s : State) (k : Fin 16) (hk : k.val + 1 = s.sp.val) :
    ∃ t, exec .ret s = .next t ∧ t.sp.val = k.val ∧ t.pc = s.stack.get k ∧
      ChangesOnly (fun p => p = .pc ∨ p = .sp) s t := by
  have htop : k = ⟨s.sp.val - 1, by omega⟩ := Fin.ext (Nat.eq_sub_of_add_eq hk)
  rw [htop]
  exact ⟨_, execRet_pop s (by omega), rfl, rfl, changesOnly_pop s _ _⟩

end Sys2Proof.Machine
end

section
/-! PROOFS. The statements of control flow (40_flow). -/

open Sys2Proof Sys2Proof.Machine

/-- Settles O11, by whether the stack has room. -/
theorem callPushesOrOverflows : Obligations.CallPushesOrOverflows := fun nnn s =>
  ⟨exec_call_pushes nnn s, fun h16 => ⟨_, execCall_overflow nnn s h16, rfl, changesOnly_fault s _⟩⟩

/-- Settles O12, by whether the stack has an entry. -/
theorem returnPopsOrUnderflows : Obligations.ReturnPopsOrUnderflows := by
  refine fun s => ⟨fun h => ?_, fun h0 => ⟨_, execRet_underflow s h0, rfl, changesOnly_fault s _⟩⟩
  have hk : s.sp.val - 1 + 1 = s.sp.val := Nat.sub_add_cancel h
  obtain ⟨t, ht, hsp, hpc, hframe⟩ := exec_ret_pops s ⟨s.sp.val - 1, by omega⟩ hk
  exact ⟨t, ht, hsp ▸ hk, hpc, hframe⟩

/-- Settles O13: the entry that the return pops is the one that the call pushed. -/
theorem returnUndoesCall : Obligations.ReturnUndoesCall := by
  intro nnn s h
  obtain ⟨t, ht, _, htsp, hentry, _⟩ := exec_call_pushes nnn s h
  refine ⟨t, ht, fun u husp hustack => ?_⟩
  obtain ⟨w, hw, hwsp, hwpc, hframe⟩ := exec_ret_pops u ⟨s.sp.val, h⟩ (by rw [husp, htsp])
  exact ⟨w, hw, by rw [hwpc, hustack, hentry], Fin.ext hwsp, hframe⟩

/-- Settles O8: each is the fetch advance and then a jump to nnn, with V0 not read. -/
theorem jumpsSetPcToNnn : Obligations.JumpsSetPcToNnn := fun _ _ => ⟨exec_jumps rfl, exec_jumps rfl⟩

/-- Settles O9: V[x] is read after the fetch advance, which leaves it. -/
theorem immediateSkips : Obligations.ImmediateSkips := fun x nn s =>
  ⟨exec_skips rfl (beq_iff_toNat_eq (s.getV x) nn), exec_skips rfl (bne_iff_toNat_ne (s.getV x) nn)⟩

/-- Settles O10: V[x] and V[y] are read after the fetch advance, which leaves them. -/
theorem registerSkips : Obligations.RegisterSkips := fun x y s =>
  ⟨exec_skips rfl (beq_iff_toNat_eq (s.getV x) (s.getV y)), exec_skips rfl (bne_iff_toNat_ne (s.getV x) (s.getV y))⟩
end

section
/-! PROOFS. Arithmetic and logic (41_alu): what an instruction does that ends by writing a register, or a register and then
the flag. -/

namespace Sys2Proof.Machine

/-! ### Differences and shifts, as numbers -/

theorem byte_sub_toNat (a b : Byte) : (a - b).toNat = (a.toNat + 256 - b.toNat) % 256 := by
  have hb : b.toNat ≤ 256 := b.isLt.le
  rw [BitVec.toNat_sub, ← Nat.sub_add_comm hb, Nat.add_comm]

theorem byte_shr_toNat (a : Byte) : (a >>> 1).toNat = a.toNat / 2 :=
  (BitVec.toNat_ushiftRight a 1).trans (Nat.shiftRight_eq_div_pow _ 1)

theorem byte_shl_toNat (a : Byte) : (a <<< 1).toNat = a.toNat * 2 % 256 := by
  rw [BitVec.toNat_shiftLeft, Nat.shiftLeft_eq]

/-! ### Instructions that write V[x] alone -/

section WritesRegister

variable {i : Instr} {s : State} {x : Reg} {b : Byte} (h : exec i s = .next (s.advance.setV x b))
include h

/-- The frame leaves VF as it was, unless it is V[x] (R121, R126). -/
theorem exec_writes_reg :
    ∃ t, exec i s = .next t ∧ t.getV x = b ∧ t.pc = s.pc + 2 ∧ ChangesOnly (fun p => p = .pc ∨ p = .v x) s t :=
  ⟨_, h, State.getV_setV_same _ x b, rfl, (changesOnly_setV _ x b).after_advance⟩

/-- The same with the byte given by its bits (R123 to R125). -/
theorem exec_writes_bits {f : Nat → Bool} (hb : ∀ k, b.getLsbD k = f k) :
    ∃ t, exec i s = .next t ∧ (∀ k, k < 8 → (t.getV x).getLsbD k = f k) ∧ t.pc = s.pc + 2 ∧
      ChangesOnly (fun p => p = .pc ∨ p = .v x) s t := by
  obtain ⟨t, ht, hv, hpc, hframe⟩ := exec_writes_reg h
  exact ⟨t, ht, fun k _ => hv ▸ hb k, hpc, hframe⟩

end WritesRegister

/-! ### Instructions that write V[x] and then the flag -/

/-- Every instruction with a flag (R127 to R131): `flag` is the flag's number, and `val` the result's. The
flag is the last write, so that VF holds it even where x = F (R126). -/
theorem exec_writes_flag {i : Instr} {s : State} {x : Reg} {b f : Byte} {flag val : Nat}
    (h : exec i s = .next (s.advance.setVFlag x b f)) (hf : f.toNat = flag) (hb : b.toNat = val) :
    ∃ t, exec i s = .next t ∧ (t.getV vf).toNat = flag ∧ (x ≠ vf → (t.getV x).toNat = val) ∧ t.pc = s.pc + 2 ∧
      ChangesOnly (fun p => p = .pc ∨ p = .v x ∨ p = .v vf) s t := by
  refine ⟨_, h, ?_, fun hx => ?_, rfl, (changesOnly_setVFlag _ x b f).after_advance⟩
  · rw [State.getV_setVFlag, if_pos rfl, hf]
  · rw [State.getV_setVFlag, if_neg hx, if_pos rfl, hb]

end Sys2Proof.Machine
end

section
/-! PROOFS. The statements of arithmetic and logic (41_alu). Each operand is read after the fetch advance, which leaves it. -/

open Sys2Proof Sys2Proof.Machine

/-- Settles O16: each writes V[x] alone, and its bits are those of the operation on bytes. -/
theorem logicOperations : Obligations.LogicOperations := fun _ _ _ =>
  ⟨exec_writes_bits rfl fun _ => BitVec.getLsbD_or, exec_writes_bits rfl fun _ => BitVec.getLsbD_and,
    exec_writes_bits rfl fun _ => BitVec.getLsbD_xor⟩

/-- Settles O17: the flag is written last, from the operands as they were. -/
theorem addSetsCarry : Obligations.AddSetsCarry := fun x y s =>
  exec_writes_flag rfl (carryFlag_toNat (s.getV x) (s.getV y)) (BitVec.toNat_add _ _)

/-- Settles O18: 8xy7 is 8xy5 with its operands exchanged. -/
theorem subtractionsSetNoBorrow : Obligations.SubtractionsSetNoBorrow := fun x y s =>
  ⟨exec_writes_flag rfl (noBorrowFlag_toNat (s.getV x) (s.getV y)) (byte_sub_toNat _ _),
    exec_writes_flag rfl (noBorrowFlag_toNat (s.getV y) (s.getV x)) (byte_sub_toNat _ _)⟩

/-- Settles O19: the bit shifted out of V[x] is its remainder modulo 2, or its quotient by 128. -/
theorem shiftsMoveTheOutgoingBit : Obligations.ShiftsMoveTheOutgoingBit := fun x _ s =>
  ⟨exec_writes_flag rfl (lowBitFlag_toNat (s.getV x)) (byte_shr_toNat _),
    exec_writes_flag rfl (highBitFlag_toNat (s.getV x)) (byte_shl_toNat _)⟩

/-- Settles O20: the byte is drawn before the counter moves on, and the frame is that of Cxnn in `mayWrite`. -/
theorem randomIsMaskedByNn : Obligations.RandomIsMaskedByNn := by
  refine fun x nn s => ⟨_, rfl, fun k _ => ?_, rfl, rfl, exec_changesOnly (i := .rnd x nn) rfl⟩
  rw [State.getV_setV_same]
  exact BitVec.getLsbD_and

/-- Settles O14: both write V[x] alone. -/
theorem registerLoads : Obligations.RegisterLoads := fun _ _ _ _ => ⟨exec_writes_reg rfl, exec_writes_reg rfl⟩

/-- Settles O15: addition of bytes is modulo 256. -/
theorem addImmediateWrapsWithoutFlag : Obligations.AddImmediateWrapsWithoutFlag := by
  intro x nn s
  obtain ⟨t, ht, hv, hpc, hframe⟩ := exec_writes_reg (i := .addImm x nn) (s := s) rfl
  exact ⟨t, ht, hv ▸ BitVec.toNat_add (s.getV x) nn, hpc, hframe⟩
end

section
/-! PROOFS. Index and memory (42_index_memory): what an instruction does that ends by writing I, or by a transfer to
memory at I, and at which addresses. -/

namespace Sys2Proof.Machine

/-- Every load of I (R150, R152). -/
theorem exec_writes_i {i : Instr} {s : State} {a : Half} {n : Nat} (h : exec i s = .next (s.advance.setI a))
    (ha : a.toNat = n) :
    ∃ t, exec i s = .next t ∧ t.i.toNat = n ∧ t.pc = s.pc + 2 ∧ ChangesOnly (fun p => p = .pc ∨ p = .i) s t :=
  ⟨_, h, ha, rfl, (changesOnly_setI _ a).after_advance⟩

/-- Every transfer to memory (R153, R154). No two of its addresses meet, since it is not longer than memory. -/
theorem exec_stores {i : Instr} {s : State} {bytes : List Byte} (h : exec i s = .next (s.advance.storeAtI bytes))
    (hlen : bytes.length ≤ 4096) :
    ∃ t, exec i s = .next t ∧ (∀ k (hk : k < bytes.length), t.mem.read (transferAddr s k) = bytes[k]) ∧
      t.pc = s.pc + 2 ∧
      ChangesOnly (fun p => p = .pc ∨ ∃ k a, k < bytes.length ∧ a.val = transferAddr s k ∧ p = .mem a) s t :=
  ⟨_, h, fun k hk => State.storeAtI_read s.advance bytes k hlen hk, rfl, (changesOnly_storeAtI _ bytes).after_advance⟩

/-- Digit k of a byte, as a number (R153). -/
theorem bcdDigits_getElem_toNat (v : Byte) (k : Nat) (hk : k < 3) :
    ((bcdDigits v)[k]'hk).toNat = [v.toNat / 100, v.toNat / 10 % 10, v.toNat % 10][k] :=
  (List.getElem_map BitVec.toNat (h := hk)).symm.trans (List.getElem_of_eq (bcdDigits_toNat v) hk)

/-- The addresses of a transfer depend on I alone (20_memory R51, R56). -/
theorem transferAddr_congr {s u : State} (h : u.i = s.i) (k : Nat) : transferAddr u k = transferAddr s k := by
  rw [transferAddr, h, transferAddr]

end Sys2Proof.Machine
end

section
/-! PROOFS. The statements of the index register and the memory transfers (42_index_memory). -/

open Sys2Proof Sys2Proof.Machine

/-- Settles O22: the sum and the carry are from the operands as they were, and the flag is the last write. -/
theorem addToIndexSetsCarry : Obligations.AddToIndexSetsCarry := by
  refine fun x s => ⟨_, rfl, indexSum_toNat s.i (s.getV x), ?_, rfl, exec_changesOnly (i := .addI x) rfl⟩
  rw [State.getV_setV_same]
  exact indexCarryFlag_toNat s.i (s.getV x)

/-- Settles O23: the transfer is of the three digits of V[x], which is read after the fetch advance that leaves it. -/
theorem bcdStoresThreeDigits : Obligations.BcdStoresThreeDigits := by
  intro x s
  obtain ⟨t, ht, hread, hpc, hframe⟩ :=
    exec_stores (i := .ldB x) (s := s) (bytes := bcdDigits (s.getV x)) rfl (by simp [bcdDigits])
  have hdigit (k : Nat) (hk : k < 3) := (congrArg BitVec.toNat (hread k hk)).trans (bcdDigits_getElem_toNat _ k hk)
  exact ⟨t, ht, hdigit 0 (by decide), hdigit 1 (by decide), hdigit 2 (by decide), hpc, hframe⟩

/-- Settles O24: the transfer is of x + 1 bytes, and byte k of it is V[k]. -/
theorem storeRegistersAtI : Obligations.StoreRegistersAtI := by
  intro x s
  have hlen := s.regsUpTo_length x
  obtain ⟨t, ht, hread, hpc, hframe⟩ := exec_stores (i := .ldMemV x) (s := s) (bytes := s.regsUpTo x) rfl (by omega)
  simp only [hlen, Nat.lt_succ_iff] at hread hframe
  exact ⟨t, ht, fun k hk => (hread k hk).trans (s.regsUpTo_getElem x k _), hpc, hframe⟩

/-- Settles O25: memory is read after the fetch advance, which leaves it, and the frame is that of Fx65 in `mayWrite`. -/
theorem loadRegistersFromI : Obligations.LoadRegistersFromI := by
  refine fun x s => ⟨_, rfl, fun k hk => ?_, rfl, exec_changesOnly (i := .ldVMem x) rfl⟩
  rw [State.getV_loadFromI, if_pos hk, State.advance_byteAtI, State.byteAtI_eq_read]

/-- Settles O26: with the same I the load reads the very addresses that the store wrote, wrapped or not. -/
theorem loadGivesBackStoredRegisters : Obligations.LoadGivesBackStoredRegisters := by
  intro x s
  obtain ⟨t, ht, hstored, _⟩ := storeRegistersAtI x s
  refine ⟨t, ht, fun u hi hmem => ?_⟩
  obtain ⟨w, hw, hloaded, _⟩ := loadRegistersFromI x u
  refine ⟨w, hw, fun k hk => ?_⟩
  calc w.getV k = u.mem.read (transferAddr u k) := hloaded k hk
    _ = t.mem.read (transferAddr s k) := by rw [hmem, transferAddr_congr hi]
    _ = s.getV k := hstored k hk

/-- Settles O21: each is the fetch advance and then a write of I. -/
theorem indexLoads : Obligations.IndexLoads := fun nnn x s =>
  ⟨exec_writes_i rfl (zext16_toNat nnn), exec_writes_i rfl (glyphAddress_toNat (s.getV x))⟩
end

section
/-! PROOFS. Display (43_display): the sprite bits that Dxyn draws, and what it leaves in each cell, in VF and in the dirty
flag. -/

namespace Sys2Proof.Machine

theorem collisionFlag_toNat_eq_one (c : Bool) : (collisionFlag c).toNat = 1 ↔ c = true := by
  rw [collisionFlag_toNat]
  cases c <;> decide

theorem collisionFlag_toNat_eq_zero (c : Bool) : (collisionFlag c).toNat = 0 ↔ c = false := by
  rw [collisionFlag_toNat]
  cases c <;> decide

/-- The sprite that Dxyn draws from a state, cell by cell (R171, R173). -/
def drwBit (x y : Reg) (n : BitVec 4) (s : State) : Fin 64 → Fin 32 → Bool :=
  spriteBit s.byteAtI (startCol (s.getV x)) (startRow drawYWrap (s.getV y)) n.toNat

/-- Its rows are read from I on, each address masked (20_memory R51). -/
theorem drwBit_eq_spriteBit_read (x y : Reg) (n : BitVec 4) (s : State) :
    drwBit x y n s = spriteBit (fun k => s.mem.read (transferAddr s k)) ((s.getV x).toNat % 64)
      ((s.getV y).toNat % 32) n.toNat := by
  rw [← funext s.byteAtI_eq_read]
  rfl

section OneDraw

variable {x y : Reg} {n : BitVec 4} {s t : State} (h : exec (.drw x y n) s = .next t)
include h

/-- Each cell under a set sprite bit is inverted (R171). -/
theorem exec_drw_pixel (c : Fin 64) (r : Fin 32) : t.pixel c r = (s.pixel c r ^^ drwBit x y n s c r) := by
  cases h
  exact State.drawSprite_pixel s.advance _ _ _ _ c r

theorem exec_drw_vf_eq_one :
    (t.getV vf).toNat = 1 ↔ ∃ c r, s.pixel c r = true ∧ drwBit x y n s c r = true := by
  cases h
  rw [State.drawSprite_getV, if_pos rfl, collisionFlag_toNat_eq_one]
  exact drawSprite_collision s.advance _ _ _ _

theorem exec_drw_vf_eq_zero :
    (t.getV vf).toNat = 0 ↔ ∀ c r, drwBit x y n s c r = true → s.pixel c r = false := by
  cases h
  have hcol := (drawSprite_collision s.advance drawYWrap (s.getV x) (s.getV y) n.toNat).not
  simp only [not_exists, not_and', Bool.not_eq_true] at hcol
  rw [State.drawSprite_getV, if_pos rfl, collisionFlag_toNat_eq_zero]
  exact hcol

/-- The start row is inside the framebuffer, so that the first row of a sprite touches the frame (R172). -/
theorem exec_drw_dirty : t.dirty = true ↔ s.dirty = true ∨ n.toNat ≥ 1 := by
  cases h
  have hrow : startRow drawYWrap (s.getV y) < 32 := Nat.mod_lt _ (by decide)
  simp [State.drawSprite_dirty, hrow, Nat.one_le_iff_ne_zero, Nat.pos_iff_ne_zero]

theorem exec_drw_pc : t.pc = s.pc + 2 := by
  cases h
  rfl

/-- Dxyn writes neither I nor memory nor a coordinate register other than VF, so a second draw has the same sprite. -/
theorem exec_drw_drwBit (hx : x ≠ vf) (hy : y ≠ vf) : drwBit x y n t = drwBit x y n s := by
  cases h
  rw [drwBit, State.drawSprite_getV, if_neg hx, State.drawSprite_getV, if_neg hy]
  rfl

end OneDraw

section TwoDraws

variable {x y : Reg} {n : BitVec 4} {s t u : State} (ht : exec (.drw x y n) s = .next t)
  (hu : exec (.drw x y n) t = .next u) (hx : x ≠ vf) (hy : y ≠ vf)
include ht hu hx hy

/-- A cell inverted twice is as it was. -/
theorem exec_drw_twice_pixel (c : Fin 64) (r : Fin 32) : u.pixel c r = s.pixel c r := by
  rw [exec_drw_pixel hu, exec_drw_pixel ht, exec_drw_drwBit ht hx hy, Bool.xor_assoc, Bool.xor_self, Bool.xor_false]

/-- The second draw collides exactly where the first one turned a cell on. -/
theorem exec_drw_twice_vf_eq_one :
    (u.getV vf).toNat = 1 ↔ ∃ c r, s.pixel c r = false ∧ drwBit x y n s c r = true := by
  rw [exec_drw_vf_eq_one hu, exec_drw_drwBit ht hx hy]
  refine exists_congr fun c => exists_congr fun r => and_congr_left fun hbit => ?_
  rw [exec_drw_pixel ht, hbit, Bool.xor_true, Bool.not_eq_true']

end TwoDraws

end Sys2Proof.Machine
end

section
/-! PROOFS. The statements of the display (43_display). -/

open Sys2Proof Sys2Proof.Machine

/-- Settles O28: VF is the last write, and the frame is that of Dxyn in `mayWrite`. -/
theorem drawInvertsSpriteCells : Obligations.DrawInvertsSpriteCells := by
  intro x y n s
  obtain ⟨t, ht⟩ : ∃ t, exec (.drw x y n) s = .next t := ⟨_, rfl⟩
  rw [← drwBit_eq_spriteBit_read]
  exact ⟨t, ht, exec_drw_pixel ht, (exec_drw_vf_eq_one ht).mpr, (exec_drw_vf_eq_zero ht).mpr, exec_drw_dirty ht,
    exec_drw_pc ht, exec_changesOnly ht⟩

/-- Settles O29: under a set sprite bit the first draw collides where the cell was set, the second where it was not. -/
theorem drawTwiceRestoresTheFrame : Obligations.DrawTwiceRestoresTheFrame := by
  intro x y n s hx hy
  obtain ⟨t, ht⟩ : ∃ t, exec (.drw x y n) s = .next t := ⟨_, rfl⟩
  obtain ⟨u, hu⟩ : ∃ u, exec (.drw x y n) t = .next u := ⟨_, rfl⟩
  refine ⟨t, u, ht, hu, exec_drw_twice_pixel ht hu hx hy, ?_⟩
  rw [exec_drw_vf_eq_one ht, exec_drw_twice_vf_eq_one ht hu hx hy]
  constructor
  · rintro (⟨c, r, _, hbit⟩ | ⟨c, r, _, hbit⟩) <;> exact ⟨c, r, hbit⟩
  · rintro ⟨c, r, hbit⟩
    cases hcell : s.pixel c r with
    | true => exact .inl ⟨c, r, hcell, hbit⟩
    | false => exact .inr ⟨c, r, hcell, hbit⟩

/-- Refutes O30: where every cell is set, the first draw turns the sprite's cells off, so the second finds none set. The
sprite is one row with its leftmost bit set, at column 0 and row 0. -/
theorem not_secondDrawAlwaysCollides : ¬ Obligations.SecondDrawAlwaysCollides := by
  intro h
  let s : State := { State.reset with i := 0x300, mem := [(0x300, 0x80)], fb := Vector.replicate 2048 true }
  have hlit : ∀ c r, s.pixel c r = true := by
    simp [s, State.pixel, Framebuffer.cell, Vector.get_eq_getElem]
  obtain ⟨t, ht⟩ : ∃ t, exec (.drw 0 0 1) s = .next t := ⟨_, rfl⟩
  obtain ⟨u, hu⟩ : ∃ u, exec (.drw 0 0 1) t = .next u := ⟨_, rfl⟩
  have hvf : (0 : Reg) ≠ vf := by decide
  have hcollides := h 0 0 1 s t u hvf hvf ht hu ⟨0, 0, by decide⟩
  obtain ⟨c, r, hclear, _⟩ := (exec_drw_twice_vf_eq_one ht hu hvf hvf).mp hcollides
  exact Bool.false_ne_true (hclear.symm.trans (hlit c r))

/-- Settles O27: CLEAR_SETS_DIRTY is false, and the frame is that of 00E0 in `mayWrite`. -/
theorem clearScreenClearsEveryCell : Obligations.ClearScreenClearsEveryCell := fun s =>
  ⟨_, rfl, State.clearScreen_pixel s.advance _, Bool.or_false s.dirty, rfl, exec_changesOnly (i := .cls) rfl⟩
end

section
/-! PROOFS. Keypad and timers (44_timers_keypad): the key that a register selects, and Fx0A with and without a key down. -/

namespace Sys2Proof.Machine

/-- A register selects key k by its low nibble (R190). -/
theorem keyIndex_eq {b : Byte} {k : Key} (h : b.toNat % 16 = k.val) : keyIndex b = k := Fin.ext h

/-- Fx0A with a key down (R196). -/
theorem exec_ldVK_takes (x : Reg) {s : State} {k : Key} (h : s.leastKeyDown = some k) :
    exec (.ldVK x) s = .next (s.advance.setV x (keyValue k)) := congrArg Host.Outcome.next (s.advance.waitKey_some x h)

/-- Fx0A with no key down: the rollback undoes the fetch advance, for every PC (R196). -/
theorem exec_ldVK_waits (x : Reg) {s : State} (h : s.leastKeyDown = none) : exec (.ldVK x) s = .next s :=
  congrArg Host.Outcome.next ((s.advance.waitKey_none x h).trans s.rollback_advance)

end Sys2Proof.Machine
end

section
/-! PROOFS. The statements of the keypad and the timers (44_timers_keypad). -/

open Sys2Proof Sys2Proof.Machine

/-- Settles O31: V[x] and the keypad are read after the fetch advance, which leaves them. -/
theorem keySkips : Obligations.KeySkips := by
  intro x k s hk
  obtain rfl := keyIndex_eq hk
  exact ⟨exec_skips rfl Iff.rfl, exec_skips rfl (Bool.not_eq_true' _).to_iff⟩

/-- Settles O33, by whether there is a least key down. -/
theorem waitForKeyTakesLeastOrWaits : Obligations.WaitForKeyTakesLeastOrWaits := by
  refine fun x s => ⟨fun k hk hleast => ?_, fun hup => exec_ldVK_waits x (s.leastKeyDown_none.mpr hup)⟩
  obtain ⟨t, ht, hv, hpc, hframe⟩ := exec_writes_reg (exec_ldVK_takes x ((s.leastKeyDown_some k).mpr ⟨hk, hleast⟩))
  exact ⟨t, ht, hv ▸ keyValue_toNat k, hpc, hframe⟩

/-- Settles O32: Fx07 writes V[x] alone, and the frames of the others are theirs in `mayWrite`. -/
theorem timerMoves : Obligations.TimerMoves := fun x _ =>
  ⟨exec_writes_reg rfl, ⟨_, rfl, rfl, rfl, exec_changesOnly (i := .ldDtV x) rfl⟩,
    ⟨_, rfl, rfl, rfl, exec_changesOnly (i := .ldStV x) rfl⟩⟩
end

section
/-! PROOFS. The unassigned words (49_unassigned): no-ops, and the residue of the decoder. -/

namespace Sys2Proof.Machine

/-- An unassigned instruction is the fetch advance alone (R210). -/
theorem exec_unassigned {i : Instr} (s : State) (h : i.isUnassigned = true) : exec i s = .next s.advance := by
  cases i with
  | unassigned0 nnn | unassigned5 x y n | unassigned8 x y n | unassigned9 x y n | unassignedE x nn
  | unassignedF x nn => rfl
  | _ => cases h

end Sys2Proof.Machine

open Sys2Proof Sys2Proof.Machine

/-- Settles O35: the advance writes PC alone, and the words of R83 are the residue that O4 states. -/
theorem unassignedIsNoOp : Obligations.UnassignedIsNoOp :=
  ⟨fun _ s h => ⟨s.advance, exec_unassigned s h, s.advance_pc, changesOnly_advance s⟩,
    fun w => (unassignedWordsAreTheResidue w).mpr⟩
end

section
/-! PROOFS. Exceptions and the host interface (60_exceptions): which step raises, what a halted machine does, and what
each transaction leaves unchanged. -/

namespace Sys2Proof.Machine

/-! ### Raises and the halted machine -/

theorem exec_overflow_iff {i : Instr} {s t : State} (h : exec i s = .next t) (hs : s.fault = .none) :
    t.fault = .stackOverflow ↔ s.sp.val = 16 ∧ ∃ nnn, i = .call nnn := by
  constructor
  · intro ht
    obtain ⟨_, _, rfl⟩ | ⟨hcall, h16, _⟩ := exec_raises h hs (by simp [ht])
    · cases ht
    · exact ⟨h16, hcall⟩
  · rintro ⟨h16, nnn, rfl⟩
    cases (execCall_overflow nnn s h16).symm.trans h
    rfl

theorem exec_underflow_iff {i : Instr} {s t : State} (h : exec i s = .next t) (hs : s.fault = .none) :
    t.fault = .stackUnderflow ↔ s.sp.val = 0 ∧ i = .ret := by
  constructor
  · intro ht
    obtain ⟨hret, h0, _⟩ | ⟨_, _, rfl⟩ := exec_raises h hs (by simp [ht])
    · exact ⟨h0, hret⟩
    · cases ht
  · rintro ⟨h0, rfl⟩
    cases (execRet_underflow s h0).symm.trans h
    rfl

/-- The state that a step of a halted machine leaves is stepped to itself (R223). -/
theorem step_markStarted_halted {s : State} (hl : s.loaded = true) (hf : s.fault ≠ .none) :
    step s.markStarted = .next s.markStarted := step_halted s.markStarted hl hf

/-! ### The frame of each host action -/

theorem changesOnly_tickTimers (s : State) : ChangesOnly (fun p => p = .dt ∨ p = .st) s s.tickTimers := by
  intro p hp
  cases p with
  | dt => exact absurd (.inl rfl) hp
  | st => exact absurd (.inr rfl) hp
  | _ => rfl

theorem changesOnly_clearDirty (s : State) : ChangesOnly (fun p => p = .dirty) s s.clearDirty := by
  intro p hp
  cases p with
  | dirty => exact absurd rfl hp
  | _ => rfl

/-- `key_down` writes true and `key_up` writes false (R242). -/
theorem changesOnly_setKey (s : State) (k : Key) (b : Bool) :
    ChangesOnly (fun p => p = .key k) s { s with keys := s.keys.set k.val b k.isLt } := by
  intro p hp
  cases p with
  | key j =>
    have hne : k.val ≠ j.val := fun h => hp (congrArg StatePart.key (Fin.ext h.symm))
    simp [StatePart.value, State.keyDown, Vector.get_eq_getElem, Vector.getElem_set_ne _ _ hne]
  | _ => rfl

theorem loadRom_keys (s : State) (bytes : List Byte) : (s.loadRom bytes).1.keys = s.keys := by
  unfold State.loadRom
  split <;> rfl

theorem loadRom_fb (s : State) (bytes : List Byte) : (s.loadRom bytes).1.fb = s.fb := by
  unfold State.loadRom
  split <;> rfl

/-! ### One transaction -/

theorem act_load {bytes : List Byte} {s t : State} {r : Response} (h : act (.load bytes) s = .next (t, r)) :
    t = (s.loadRom bytes).1 := by
  simp only [act] at h
  split at h <;> cases h
  rfl

theorem act_step {s t : State} {r : Response} (h : act .step s = .next (t, r)) : step s = .next t := by
  simp only [act] at h
  split at h <;> cases h
  assumption

/-- The key actions are the only writers of the keypad (R242). -/
theorem act_keys {a : Action} {s t : State} {r : Response} (ha : ∀ k, a ≠ .keyDown k ∧ a ≠ .keyUp k)
    (h : act a s = .next (t, r)) : t.keys = s.keys := by
  cases a with
  | keyDown k => exact absurd rfl (ha k).1
  | keyUp k => exact absurd rfl (ha k).2
  | load bytes => exact act_load h ▸ loadRom_keys s bytes
  | step => exact step_keys (act_step h)
  | _ => cases h; rfl

/-- A step is the only writer of the framebuffer (R244). -/
theorem act_fb {a : Action} {s t : State} {r : Response} (ha : a ≠ .step) (h : act a s = .next (t, r)) :
    t.fb = s.fb := by
  obtain ⟨bytes, _, _, rfl⟩ | ⟨hstep, _⟩ | rfl | ⟨k, rfl⟩ | ⟨k, rfl⟩ | rfl | rfl := act_cases h
  · exact loadRom_fb s bytes
  · exact absurd hstep ha
  all_goals rfl

/-- n ticks subtract n from both timers, floored at 0 (R230). -/
theorem runActions_tickTimers (n : Nat) (s : State) :
    ∃ t, runActions (List.replicate n .tickTimers) s = .next t ∧
      t.dt.toNat = s.dt.toNat - n ∧ t.st.toNat = s.st.toNat - n := by
  induction n generalizing s with
  | zero => exact ⟨s, rfl, rfl, rfl⟩
  | succ n ih =>
    obtain ⟨t, ht, hdt, hst⟩ := ih s.tickTimers
    rw [State.tickTimers_dt, tickTimer_toNat] at hdt
    rw [State.tickTimers_st, tickTimer_toNat] at hst
    exact ⟨t, (runActions_cons _ rfl).trans ht, by omega, by omega⟩

/-! ### The reads -/

theorem State.readFramebuffer_length (s : State) : s.readFramebuffer.length = 2048 := by
  simp [State.readFramebuffer]

theorem State.readFramebuffer_cell (s : State) (col : Fin 64) (row : Fin 32) :
    s.readFramebuffer[row.val * 64 + col.val]? = some (if s.pixel col row then 1 else 0) := by
  have hlt : row.val * 64 + col.val < s.fb.toList.length := s.fb.length_toList.symm ▸ (cellIndex col row).isLt
  rw [State.readFramebuffer, List.getElem?_map, List.getElem?_eq_getElem hlt]
  rfl

/-- The codes of the fault port tell the three statuses apart (R240). -/
theorem faultCode_eq_iff {e e' : FaultStatus} : faultCode e = faultCode e' ↔ e = e' :=
  ⟨faultCode_injective, congrArg faultCode⟩

theorem State.soundActive_iff (s : State) : s.soundActive = true ↔ s.st.toNat > 0 := decide_eq_true_iff

end Sys2Proof.Machine
end

section
/-! PROOFS. The statements of exceptions and of the host interface (60_exceptions). -/

open Sys2Proof Sys2Proof.Machine

/-- Settles O36: the step runs the instruction at PC, and of those only 2nnn and 00EE raise, at the bounds of SP. -/
theorem onlyCallAndReturnRaise : Obligations.OnlyCallAndReturnRaise := by
  intro s hl hf
  obtain ⟨t, ht⟩ := exec_answers (decode s.fetchWord) s.markStarted
  exact ⟨t, (step_runs s hl hf).trans ht, exec_overflow_iff (s := s.markStarted) ht hf,
    exec_underflow_iff (s := s.markStarted) ht hf⟩

/-- Settles O37: a raise writes `fault` on the state that the step marked as started, before the fetch advance. -/
theorem raiseCommitsNothing : Obligations.RaiseCommitsNothing := by
  intro s t hs h ht
  obtain ⟨_, ⟨hf, _⟩ | ⟨_, hx⟩⟩ := step_cases h
  · exact absurd hs hf
  · obtain ⟨_, _, rfl⟩ | ⟨_, _, rfl⟩ := exec_raises hx hs ht <;> rfl

/-- Settles O38: the first step marks the machine as started, and the marked state is left by no further step. -/
theorem haltedMachineStaysHalted : Obligations.HaltedMachineStaysHalted := fun s n hl hf =>
  (core_run_succ n (step_halted s hl hf)).trans (core_run_fixed n (step_markStarted_halted hl hf))

/-- Settles O51, by induction on the number of ticks. -/
theorem tickTimersCountDownToZero : Obligations.TickTimersCountDownToZero := fun s n =>
  ⟨rfl, changesOnly_tickTimers s, runActions_tickTimers n s⟩

/-- Settles O52, by the transactions. -/
theorem keysChangeOnlyByKeyActions : Obligations.KeysChangeOnlyByKeyActions :=
  ⟨fun s k =>
    ⟨⟨_, rfl, (s.keyDown_pressKey k k).trans (if_pos rfl), changesOnly_setKey s k true⟩,
      ⟨_, rfl, (s.keyDown_releaseKey k k).trans (if_pos rfl), changesOnly_setKey s k false⟩⟩,
    fun _ _ _ _ => act_keys⟩

/-- Settles O54: the offset of a cell in the read is its offset in the framebuffer. -/
theorem framebufferReadIsRowMajor : Obligations.FramebufferReadIsRowMajor :=
  ⟨fun s => ⟨_, rfl, s.readFramebuffer_length, s.readFramebuffer_cell⟩, fun _ _ _ _ => act_fb⟩

/-- Settles O53, by the parts of the state. -/
theorem clearDirtyChangesOnlyDirty : Obligations.ClearDirtyChangesOnlyDirty := fun s =>
  ⟨_, rfl, s.clearDirty_dirty, changesOnly_clearDirty s⟩

/-- Settles O55: every read answers the state it was given, and 0, 1 and 2 are the codes of the three statuses. -/
theorem statusReadsChangeNothing : Obligations.StatusReadsChangeNothing := fun s =>
  ⟨rfl, rfl, rfl, ⟨_, rfl, faultCode_eq_iff (e' := .none), faultCode_eq_iff (e' := .stackOverflow),
    faultCode_eq_iff (e' := .stackUnderflow)⟩, ⟨_, rfl, s.soundActive_iff⟩⟩
end

section
/-! PROOFS. Reset, the load protocol and the waits (70_reset_and_hazards): what stands in memory after `create()`, what a
load writes and when it is admitted, and the instructions that a machine never leaves. -/

namespace Sys2Proof.Machine

/-! ### Instructions that leave the state as it is -/

theorem State.markStarted_eq_self {s : State} (h : s.started = true) : s.markStarted = s := by
  rw [State.markStarted, ← h]

/-- A started machine whose instruction at PC leaves the state makes any number of steps in it (R265, R273). -/
theorem core_run_of_exec_fixed {s : State} (n : Nat) (hl : s.loaded = true) (hs : s.started = true)
    (hf : s.fault = .none) (h : exec (decode s.fetchWord) s = .next s) : core.run n s = .next s := by
  apply core_run_fixed
  rw [step_runs s hl hf, State.markStarted_eq_self hs, h]

theorem State.advance_jumpTo_pc (s : State) : s.advance.jumpTo s.pc = s := rfl

/-- A jump to the address where it stands undoes the fetch advance (R265, 40_flow R103). -/
theorem exec_jp_self {nnn : Addr12} {s : State} (h : s.pc.toNat = nnn.toNat) : exec (.jp nnn) s = .next s := by
  have hpc : zext16 nnn = s.pc := BitVec.eq_of_toNat_eq ((zext16_toNat nnn).trans h.symm)
  exact congrArg Host.Outcome.next (hpc ▸ s.advance_jumpTo_pc)

/-! ### Load -/

/-- A ROM that fits lies below 0x1000, so that no address of it wraps (R261). -/
theorem loadRom_read (s : State) {bytes : List Byte} (h : bytes.length ≤ 0xE00) (k : Nat) (hk : k < bytes.length) :
    (s.loadRom bytes).1.mem.read (0x200 + k) = bytes[k] := by
  rw [loadRom_fits s bytes h]
  exact Memory.read_writeBytes bytes s.mem 0x200 k (by omega) hk

theorem changesOnly_loadRom (s : State) {bytes : List Byte} (h : bytes.length ≤ 0xE00) :
    ChangesOnly (fun p => p = .loaded ∨
      ∃ a : Fin 4096, 0x200 ≤ a.val ∧ a.val < 0x200 + bytes.length ∧ p = .mem a) s (s.loadRom bytes).1 := by
  rw [loadRom_fits s bytes h]
  intro p hp
  cases p with
  | loaded => exact absurd (.inl rfl) hp
  | mem a =>
    have hne : ∀ k, k < bytes.length → maskAddr a.val ≠ maskAddr (0x200 + k) := by
      intro k hk he
      rw [maskAddr_of_lt a.isLt, maskAddr_of_lt (by omega)] at he
      exact hp (.inr ⟨a, by omega, by omega, rfl⟩)
    exact congrArg BitVec.toNat (Memory.read_writeBytes_ne bytes s.mem 0x200 a.val hne)
  | _ => rfl

/-- A load leaves the machine unloaded exactly when it fails, which is when it may be tried again (R262). -/
theorem loadRom_loaded_eq_false {s : State} (hl : s.loaded = false) (bytes : List Byte) :
    (s.loadRom bytes).1.loaded = false ↔ (s.loadRom bytes).2 = .romTooLarge := by
  rcases Nat.lt_or_ge 0xE00 bytes.length with hlen | hlen
  · simp [loadRom_too_large s bytes hlen, hl]
  · simp [loadRom_fits s bytes hlen]

theorem State.loadAdmitted_eq_true {s : State} (hl : s.loaded = false) (hs : s.started = false) :
    s.loadAdmitted = true := by simp [State.loadAdmitted, hl, hs]

theorem State.loadAdmitted_eq_false {s : State} (h : s.loaded = true ∨ s.started = true) : s.loadAdmitted = false := by
  obtain h | h := h <;> simp [State.loadAdmitted, h]

theorem act_load_admitted {s : State} (h : s.loadAdmitted = true) (bytes : List Byte) :
    act (.load bytes) s = .next ((s.loadRom bytes).1, .load (s.loadRom bytes).2) := if_pos h

theorem act_load_refused {s : State} (h : s.loadAdmitted = false) (bytes : List Byte) :
    act (.load bytes) s = .refused .loadNotAdmitted := if_neg (by simp [h])

/-- No step of a loaded machine is refused (R262): halted or not, it answers a next state. -/
theorem step_answers {s : State} (hl : s.loaded = true) : ∃ t, step s = .next t := by
  by_cases hf : s.fault = .none
  · exact step_runs s hl hf ▸ exec_answers _ _
  · exact ⟨_, step_halted s hl hf⟩

/-! ### Memory after `create()` -/

/-- The font stands at 0x050 to 0x09F, and every other byte is 0 (10_state R32, R39). -/
theorem resetByte_eq (a : Nat) : resetByte a = if 0x050 ≤ a ∧ a < 0x0A0 then font.getD (a - 0x050) 0 else 0 := rfl

theorem resetByte_of_lt {a : Nat} (h : a < 0x050) : resetByte a = 0 := (resetByte_eq a).trans (if_neg (by omega))

theorem resetByte_of_ge {a : Nat} (h : 0x0A0 ≤ a) : resetByte a = 0 := (resetByte_eq a).trans (if_neg (by omega))

theorem resetByte_font {k : Nat} (h : k < 80) : resetByte (0x050 + k) = font.getD k 0 := by
  rw [resetByte_eq, if_pos (by omega), Nat.add_sub_cancel_left]

theorem create_read {a : Nat} (h : a < 0x1000) : create.mem.read a = resetByte a :=
  (Memory.read_nil a).trans (congrArg resetByte (maskAddr_of_lt h))

end Sys2Proof.Machine
end

section
/-! PROOFS. The statements of reset and of the hazards (70_reset_and_hazards). -/

open Sys2Proof Sys2Proof.Machine

/-- Settles O34: the rollback of Fx0A undoes its fetch advance, so that each step leaves the state. -/
theorem waitForKeyCanWaitForever : Obligations.WaitForKeyCanWaitForever := fun _ s n hl hs hf hd hup =>
  core_run_of_exec_fixed n hl hs hf (hd ▸ exec_ldVK_waits _ (s.leastKeyDown_none.mpr hup))

/-- Settles O46: the jump undoes its fetch advance, so that each step leaves the state. -/
theorem selfJumpNeverLeaves : Obligations.SelfJumpNeverLeaves := fun _ _ n hl hs hf hpc hd =>
  core_run_of_exec_fixed n hl hs hf (hd ▸ exec_jp_self hpc)

/-- Settles O49, by whether the ROM fits. -/
theorem loadWritesTheRom : Obligations.LoadWritesTheRom := by
  refine fun s bytes => ⟨loadRom_too_large s bytes, fun hlen => ?_⟩
  have hfits := loadRom_fits s bytes hlen
  exact ⟨(s.loadRom bytes).1, by rw [hfits], by rw [hfits], loadRom_read s hlen, changesOnly_loadRom s hlen⟩

/-- Settles O50, by whether the load is admitted. -/
theorem loadProtocol : Obligations.LoadProtocol := fun _ bytes =>
  ⟨fun hl hs => ⟨act_load_admitted (State.loadAdmitted_eq_true hl hs) bytes, loadRom_loaded_eq_false hl bytes⟩,
    fun h => act_load_refused (State.loadAdmitted_eq_false h) bytes⟩

/-- Settles O47: the arrays are constant, and memory is what an unlisted address reads as. -/
theorem createGivesTheResetState : Obligations.CreateGivesTheResetState :=
  ⟨Vector.get_replicate 16 0, rfl, rfl, rfl, Vector.get_replicate 16 0, rfl, rfl,
    fun col row => Vector.get_replicate 2048 false (cellIndex col row), rfl, Vector.get_replicate 16 false,
    fun _ ha => (create_read (by omega)).trans (resetByte_of_lt ha),
    fun _ ha hlt => (create_read hlt).trans (resetByte_of_ge ha),
    fun _ hk => (create_read (by omega)).trans (resetByte_font hk), rfl, rfl, rfl⟩

/-- Settles O48, by `loaded`. -/
theorem stepIsRefusedExactlyBeforeLoad : Obligations.StepIsRefusedExactlyBeforeLoad := fun s =>
  ⟨step_unloaded s, step_answers⟩
end
